-- ==== Sys2Proof/Word.lean ====
section
/-! DEFINITION. The word types of DESCORE, one fixed width each (R7, R13 of spec/00_scope.md). All values are unsigned. -/

namespace Sys2Proof

/-- `u8`: a byte of a buffer, a command code, a status code. -/
abbrev Byte := BitVec 8

/-- `u64`: the unit of cipher operation, and the key operand (R7). -/
abbrev Block := BitVec 64

/-- `u32`: a half-block `L_r` or `R_r` (R7). -/
abbrev Half := BitVec 32

/-- `u48`: a subkey, or an expanded half-block (R7). -/
abbrev Subkey := BitVec 48

/-- `u56`: the key-schedule value `CD_n` (R25). -/
abbrev KeyPair := BitVec 56

/-- `u28`: a key-schedule half `C_n` or `D_n` (R7). -/
abbrev KeyHalf := BitVec 28

/-- `u6`: an S-box input group (R7). -/
abbrev Group := BitVec 6

/-- `u4`: an S-box output (R7). -/
abbrev Nibble := BitVec 4

/-- SubkeySet: "Ordered sequence of 16 values, each a 48-bit unsigned integer", index 0 the round-1 subkey (R20). -/
abbrev SubkeySet := Vector Subkey 16

end Sys2Proof
end

