-- ==== Sys2Proof/Syntax.lean ====
section
/-! DEFINITION. Commands and responses of DESCORE: the typed command `Instr` (one constructor per row of
spec/opcode_table.json), the command record at the port (R60), the response record (R65), the status names (R191). -/

namespace Sys2Proof

/-- The two command formats (R60): `W`, fixed-width words, and `B`, a byte buffer. -/
inductive Format where
  | word
  | buffer
deriving DecidableEq, Repr

/-- A command with its operands at their exact widths (R61, R64). -/
inductive Instr where
  /-- KEYGEN, op 0x01 (R104): load the subkeys of a 64-bit key. -/
  | keygen (key : Block)
  /-- ENC, op 0x02 (R145): encrypt one block. -/
  | enc (block : Block)
  /-- DEC, op 0x03 (R146): decrypt one block. -/
  | dec (block : Block)
  /-- F, op 0x04 (R133): the round function on a half and a subkey operand. -/
  | f (right : Half) (subkey : Subkey)
  /-- SUBST, op 0x05 (R132): the eight S-boxes. -/
  | subst (x : Subkey)
  /-- RDSK, op 0x06 (R107): read subkey register `i`. -/
  | rdsk (i : Fin 16)
  /-- PERM.IP, op 0x10 (R90). -/
  | permIp (x : Block)
  /-- PERM.FP, op 0x11 (R91). -/
  | permFp (x : Block)
  /-- PERM.E, op 0x12 (R92). -/
  | permE (x : Half)
  /-- PERM.P, op 0x13 (R93). -/
  | permP (x : Half)
  /-- PERM.PC1, op 0x14 (R94). -/
  | permPc1 (x : Block)
  /-- PERM.PC2, op 0x15 (R95). -/
  | permPc2 (x : KeyPair)
  /-- PAD, op 0x20 (R162). -/
  | pad (data : List Byte)
  /-- UNPAD, op 0x21 (R164). -/
  | unpad (data : List Byte)
  /-- ENCRYPT, op 0x22 (R170). -/
  | encrypt (data : List Byte)
  /-- DECRYPT, op 0x23 (R171). -/
  | decrypt (data : List Byte)
  /-- NEW, op 0x24 (R106): load the subkeys of an 8-byte key buffer. -/
  | new (data : List Byte)
deriving DecidableEq, Repr

/-- The command record at the port. R60 gives two records, `op a b` (format W) and `op len data` (format B, with
`len = data.length`), and says that `op[7:4]` alone decides which one a command is. This record carries the operand fields
of both; those of the other format are never read (DESIGN CHOICE, log 5). -/
structure Command where
  op : Byte
  a : Block
  b : Subkey
  data : List Byte
deriving DecidableEq, Repr

/-- The format W record of R60. -/
def Command.word (op : Byte) (a : Block) (b : Subkey) : Command :=
  { op := op, a := a, b := b, data := [] }

/-- The format B record of R60; `len` is the length of the list. -/
def Command.buffer (op : Byte) (data : List Byte) : Command :=
  { op := op, a := 0, b := 0, data := data }

/-- The status of a response: the names of R191. Codes 0x06 to 0xFF have no name: they are never produced. -/
inductive Status where
  | ok
  | keyLengthError
  | blockLengthError
  | paddingError
  | noKeyError
  | illegalCommand
deriving DecidableEq, Repr

/-- The response record of R65, in the format of its command. -/
inductive Response where
  | word (status : Status) (result : Block)
  | buffer (status : Status) (rdata : List Byte)
deriving DecidableEq, Repr

/-- The `status` field of a response. -/
def Response.status : Response → Status
  | .word st _ => st
  | .buffer st _ => st

/-- The format of a response (R65). -/
def Response.format : Response → Format
  | .word _ _ => .word
  | .buffer _ _ => .buffer

/-- "an error response carries no data": `result` is 0, `rdata` is empty (R65, R196). -/
def Response.noData : Response → Bool
  | .word _ v => v == 0
  | .buffer _ d => d == []

end Sys2Proof
end

