-- ==== Sys2Proof/Machine/State.lean ====
section
/-! DEFINITION. The state of one DESCORE: the subkey store with its flag (spec/10_state.md), and the command port (R60, R65,
R217). INVENTORY.md, "## State", lists every field. There is no memory, no program counter, no control register (R24, R26,
R47). -/

namespace Sys2Proof.Machine

/-- What the outside world can do to the core, between two commands: issue one command (R60) or reset it (R210). -/
inductive PortEvent where
  | command (c : Command)
  | reset
deriving DecidableEq, Repr

/-- Reasons to stop with a fault: there is none. "All operations are synchronous, deterministic, and total" (R11); an error
is a response, not a stop (R6, R190, R196; log 9). -/
inductive Fault where
deriving DecidableEq, Repr

/-- Reasons to refuse a command. -/
inductive Refusal where
  /-- Raised by an arm of `exec` for a command that has no meaning yet; no arm raises it. Safe. -/
  | notModelled (mnemonic : String)
deriving DecidableEq, Repr

/-- The state. -/
structure State where
  /-- `SUBKEY` and `KEY_VALID` as one field, as R30 has it: `none` is `KEY_VALID = 0` with no SubkeySet, `some ks` is
  `KEY_VALID = 1` with `SUBKEY[i] = ks[i]` (R20, R22; log 4). -/
  subkeys : Option SubkeySet
  /-- The model's own: what the host has issued and the core has not taken yet, oldest first (log 1). -/
  pending : List PortEvent
  /-- The model's own: the responses given so far, oldest first (R217; log 2). No command reads it (R27). -/
  responses : List Response
deriving DecidableEq, Repr

/-- The state after reset, before any command (R30, R210): no SubkeySet, `KEY_VALID = 0`; nothing issued and nothing
answered yet (log 1, log 2). -/
def State.reset : State :=
  { subkeys := none, pending := [], responses := [] }

/-- The outcome of a command or a step of this machine. -/
abbrev Outcome := Host.Outcome State Fault Refusal

end Sys2Proof.Machine
end

