-- ==== Sys2Proof/Machine/Flags.lean ====
section
/-! DEFINITION. The one flag, `KEY_VALID` (R22, R26). No command sets a condition code as a side effect. -/

namespace Sys2Proof.Machine

/-- `KEY_VALID`: 1 exactly when a SubkeySet is held (R22, R30). -/
def State.keyValid (s : State) : Bool :=
  s.subkeys.isSome

end Sys2Proof.Machine
end

