-- ==== Sys2Proof/Config.lean ====
section
/-! DEFINITION. What an implementation of DESCORE fixes and the spec leaves open (R9 of spec/00_scope.md). The machine's
step takes none of it: these are arguments of the packed forms and of the host's checks. There is no free value: "There is
no draw, no oracle and no non-determinism anywhere in the machine" (R11). -/

namespace Sys2Proof

/-- The part of `PortProtocol` that a rule names: the width of the packed length field of a format B command, here in bytes
(R66: "a field whose width is part of `PortProtocol`"). Log 6. -/
structure PortProtocol where
  lenBytes : Nat
deriving DecidableEq, Repr

/-- The open parameters that bound what a host may send. `maxBufLen` is `MAX_BUF_LEN` (R9): `none` is the spec's own
unbounded buffer, `some m` an implementation that carries at most `m` bytes (log 8). -/
structure Config where
  port : PortProtocol
  maxBufLen : Option Nat
deriving DecidableEq, Repr

/-- "the model uses an unbounded natural number and a list of bytes" (R9). -/
def Config.unbounded (port : PortProtocol) : Config :=
  { port := port, maxBufLen := none }

end Sys2Proof
end

