-- ==== Sys2Proof/Decode.lean ====
section
/-! DEFINITION. From the port to a typed command and back: framing (R60, R66, R73), decoding (R61, R64, R68), encoding,
the packed response (R66), the table word of the host, pseudo-commands (R71), the written form (R70). Steps (1) to (3) of R73
take no state. -/

namespace Sys2Proof

/-! Byte-order helpers of the packed forms. -/

/-- The number whose base-256 digits are the bytes, the first one the most significant (R40). -/
def beNat (bs : List Byte) : Nat :=
  bs.foldl (fun acc x => acc * 256 + x.toNat) 0

/-- The `k` low base-256 digits of `v`, the most significant first. -/
def beBytes (k v : Nat) : List Byte :=
  (List.range k).map fun j => BitVec.ofNat 8 (v / 256 ^ (k - 1 - j))

/-! Decoding. -/

/-- Why a command is not one of the seventeen, by name. -/
inductive DecodeError where
  /-- The command code is in no row of R61. Raised by `decode`; the core answers it with `IllegalCommand` (R68). Safe. -/
  | illegalCommand (op : Byte)
  /-- A packed byte sequence ends before its command does. Raised by `readCommand` only, never by the machine. Safe. -/
  | truncated
deriving DecidableEq, Repr

/-- "The format of a command is decided by `op[7:4]` alone: `op[7:4] = 0x2` is format `B`, every other value is format
`W`" (R60). -/
def formatOf (op : Byte) : Format :=
  if op.extractLsb' 4 4 = 2#4 then .buffer else .word

/-- The command code to command map of R61, each operand the named slice of `a`, `b` or `data` (R64). Total on all 256
values of `op` (R68). -/
def decode (c : Command) : Except DecodeError Instr :=
  match c.op with
  | 0x01#8 => .ok (.keygen c.a)
  | 0x02#8 => .ok (.enc c.a)
  | 0x03#8 => .ok (.dec c.a)
  | 0x04#8 => .ok (.f (c.a.extractLsb' 0 32) c.b)
  | 0x05#8 => .ok (.subst c.b)
  | 0x06#8 => .ok (.rdsk (c.a.extractLsb' 0 4).toFin)
  | 0x10#8 => .ok (.permIp c.a)
  | 0x11#8 => .ok (.permFp c.a)
  | 0x12#8 => .ok (.permE (c.a.extractLsb' 0 32))
  | 0x13#8 => .ok (.permP (c.a.extractLsb' 0 32))
  | 0x14#8 => .ok (.permPc1 c.a)
  | 0x15#8 => .ok (.permPc2 (c.a.extractLsb' 0 56))
  | 0x20#8 => .ok (.pad c.data)
  | 0x21#8 => .ok (.unpad c.data)
  | 0x22#8 => .ok (.encrypt c.data)
  | 0x23#8 => .ok (.decrypt c.data)
  | 0x24#8 => .ok (.new c.data)
  | op => .error (.illegalCommand op)

/-- Read one packed command from a byte sequence and give the rest (R73 (1), (2)): the byte `op`; then, in format W, the
remaining 112 bits of the 120-bit word, `b` before `a` (R66); in format B, the length field and that many data bytes (R66,
R69). The order of the bytes inside a field is most significant first (log 6, log 7). -/
def readCommand (p : PortProtocol) (bs : List Byte) : Except DecodeError (Command × List Byte) :=
  match bs with
  | [] => .error .truncated
  | op :: rest =>
    match formatOf op with
    | .word =>
      if rest.length < 14 then .error .truncated
      else .ok (.word op (BitVec.ofNat 64 (beNat ((rest.drop 6).take 8))) (BitVec.ofNat 48 (beNat (rest.take 6))),
        rest.drop 14)
    | .buffer =>
      if rest.length < p.lenBytes then .error .truncated
      else
        let len := beNat (rest.take p.lenBytes)
        let body := rest.drop p.lenBytes
        if body.length < len then .error .truncated
        else .ok (.buffer op (body.take len), body.drop len)

/-- Read and decode one packed command (R73 (1) to (3)). -/
def decodeBytes (p : PortProtocol) (bs : List Byte) : Except DecodeError (Instr × List Byte) :=
  match readCommand p bs with
  | .error e => .error e
  | .ok (c, rest) =>
    match decode c with
    | .error e => .error e
    | .ok i => .ok (i, rest)

/-! Encoding, from the same map. Surplus operand bits are zero: "a host should send them as zero" (R64). -/

/-- The command record of a command (R61). -/
def encode : Instr → Command
  | .keygen key => .word 0x01 key 0
  | .enc block => .word 0x02 block 0
  | .dec block => .word 0x03 block 0
  | .f right subkey => .word 0x04 (right.setWidth 64) subkey
  | .subst x => .word 0x05 0 x
  | .rdsk i => .word 0x06 (BitVec.ofNat 64 i.val) 0
  | .permIp x => .word 0x10 x 0
  | .permFp x => .word 0x11 x 0
  | .permE x => .word 0x12 (x.setWidth 64) 0
  | .permP x => .word 0x13 (x.setWidth 64) 0
  | .permPc1 x => .word 0x14 x 0
  | .permPc2 x => .word 0x15 (x.setWidth 64) 0
  | .pad data => .buffer 0x20 data
  | .unpad data => .buffer 0x21 data
  | .encrypt data => .buffer 0x22 data
  | .decrypt data => .buffer 0x23 data
  | .new data => .buffer 0x24 data

/-- The packed 120-bit word of a format W record: `op = cmd[119:112]`, `b = cmd[111:64]`, `a = cmd[63:0]` (R66). -/
def Command.packed (c : Command) : BitVec 120 :=
  c.op ++ c.b ++ c.a

/-- The packed bytes of a command record (R66): format W the 120-bit word, format B `op`, the length field, the data. -/
def writeCommand (p : PortProtocol) (c : Command) : List Byte :=
  match formatOf c.op with
  | .word => beBytes 15 c.packed.toNat
  | .buffer => c.op :: (beBytes p.lenBytes c.data.length ++ c.data)

/-- The packed bytes of a command. -/
def encodeBytes (p : PortProtocol) (i : Instr) : List Byte :=
  writeCommand p (encode i)

/-! Packed responses (R66, R191). -/

/-- The status codes of R191. -/
def Status.code : Status → Byte
  | .ok => 0x00
  | .keyLengthError => 0x01
  | .blockLengthError => 0x02
  | .paddingError => 0x03
  | .noKeyError => 0x04
  | .illegalCommand => 0x05

/-- The 72-bit word of a format W response: `status = rsp[71:64]`, `result = rsp[63:0]` (R66). -/
def packedResponse (st : Status) (result : Block) : BitVec 72 :=
  st.code ++ result

/-- The packed bytes of a response: `status`, then the result word, or `rlen` and the data, `rdata[0]` first (R66). -/
def Response.bytes (p : PortProtocol) : Response → List Byte
  | .word st v => beBytes 9 (packedResponse st v).toNat
  | .buffer st d => st.code :: (beBytes p.lenBytes d.length ++ d)

/-! The host's table words: the instruction's bytes in port order, the first byte in bits 7..0 (log 7). -/

/-- The length field the table words are read with; the table gives a row its code byte only, so that the length field and
the data are the zeros above it (log 6). -/
def tableProtocol : PortProtocol :=
  { lenBytes := 8 }

/-- The first `count` bytes of the instruction whose bits are `w`, zeros above `nbits`. -/
def tableBytes (nbits w count : Nat) : List Byte :=
  (List.range count).map fun k => BitVec.ofNat 8 (w % 2 ^ nbits / 256 ^ k)

/-- How many bytes that instruction has: 15 in format W; in format B the code, the length field and its data. -/
def tableLength (nbits w : Nat) : Nat :=
  match formatOf (BitVec.ofNat 8 (w % 2 ^ nbits)) with
  | .word => 15
  | .buffer =>
    1 + tableProtocol.lenBytes + beNat ((tableBytes nbits w (1 + tableProtocol.lenBytes)).drop 1)

/-- The command record the framing reads from a table word. The second case never happens: the bytes are as many as the
framing asks for. -/
def tableCommand (nbits w : Nat) : Command :=
  match readCommand tableProtocol (tableBytes nbits w (tableLength nbits w)) with
  | .ok (c, _) => c
  | .error _ => .word (BitVec.ofNat 8 (w % 2 ^ nbits)) 0 0

/-- The instruction the decoder reads from a table word. -/
def decodeTableWord (nbits w : Nat) : Option Instr :=
  (decode (tableCommand nbits w)).toOption

/-! Pseudo-commands (R71): names a host may write, each one command or a fixed list of commands. -/

/-- `EXPAND x` means `PERM.E x`. -/
def Instr.expand (x : Half) : Instr := .permE x

/-- `SUBSTITUTE x` means `SUBST x`. -/
def Instr.substitute (x : Subkey) : Instr := .subst x

/-- `CRYPT d, x` means `ENC x` for d = 0 and `DEC x` for d = 1. -/
def Instr.crypt (decrypt : Bool) (x : Block) : Instr :=
  if decrypt then .dec x else .enc x

/-- `TRANSFORM d, buf` means `ENCRYPT buf` for d = 0; for d = 1 it is a command only on whole blocks, where it is
`DECRYPT buf` (R71, R169). -/
def Instr.transform (decrypt : Bool) (buf : List Byte) : Option Instr :=
  if decrypt then (if buf.length % 8 = 0 then some (.decrypt buf) else none) else some (.encrypt buf)

/-- `generateSubkeys(k)` as commands: `KEYGEN k`, then `RDSK 0` to `RDSK 15`. -/
def Instr.generateSubkeysProgram (key : Block) : List Instr :=
  .keygen key :: (List.range 16).map fun i => .rdsk (Fin.ofNat 16 i)

/-! The written form of a command and of a response (R70). -/

/-- One upper-case hexadecimal digit. -/
def hexDigit (v : Nat) : Char :=
  "0123456789ABCDEF".toList.getD (v % 16) '0'

/-- The `k` low hexadecimal digits of `v`, most significant first. -/
def hexDigits (k v : Nat) : List Char :=
  (List.range k).map fun j => hexDigit (v / 16 ^ (k - 1 - j))

/-- A hexadecimal literal with exactly `w / 4` digits (R13, R70). -/
def writtenWord {w : Nat} (v : BitVec w) : List Char :=
  "0x".toList ++ hexDigits (w / 4) v.toNat

/-- A buffer in square brackets, two digits a byte, spaces between, first byte first (R70). -/
def writtenBytes (data : List Byte) : List Char :=
  "[".toList ++ List.intercalate " ".toList (data.map fun x => hexDigits 2 x.toNat) ++ "]".toList

/-- A command as R70 writes it: the mnemonic, one space, the operands separated by a comma. -/
def Instr.written : Instr → List Char
  | .keygen k => "KEYGEN ".toList ++ writtenWord k
  | .enc x => "ENC ".toList ++ writtenWord x
  | .dec x => "DEC ".toList ++ writtenWord x
  | .f r k => "F ".toList ++ writtenWord r ++ ", ".toList ++ writtenWord k
  | .subst x => "SUBST ".toList ++ writtenWord x
  | .rdsk i => "RDSK ".toList ++ Nat.toDigits 10 i.val
  | .permIp x => "PERM.IP ".toList ++ writtenWord x
  | .permFp x => "PERM.FP ".toList ++ writtenWord x
  | .permE x => "PERM.E ".toList ++ writtenWord x
  | .permP x => "PERM.P ".toList ++ writtenWord x
  | .permPc1 x => "PERM.PC1 ".toList ++ writtenWord x
  | .permPc2 x => "PERM.PC2 ".toList ++ writtenWord x
  | .pad d => "PAD ".toList ++ writtenBytes d
  | .unpad d => "UNPAD ".toList ++ writtenBytes d
  | .encrypt d => "ENCRYPT ".toList ++ writtenBytes d
  | .decrypt d => "DECRYPT ".toList ++ writtenBytes d
  | .new d => "NEW ".toList ++ writtenBytes d


/-- The name of a status (R191). -/
def Status.name : Status → List Char
  | .ok => "OK".toList
  | .keyLengthError => "KeyLengthError".toList
  | .blockLengthError => "BlockLengthError".toList
  | .paddingError => "PaddingError".toList
  | .noKeyError => "NoKeyError".toList
  | .illegalCommand => "IllegalCommand".toList

/-- The width in bits of a command's word result (R61); 0 where it is no word or there is none. -/
def Instr.resultBits : Instr → Nat
  | .keygen _ => 0
  | .enc _ => 64
  | .dec _ => 64
  | .f _ _ => 32
  | .subst _ => 32
  | .rdsk _ => 48
  | .permIp _ => 64
  | .permFp _ => 64
  | .permE _ => 48
  | .permP _ => 32
  | .permPc1 _ => 56
  | .permPc2 _ => 48
  | .pad _ => 0
  | .unpad _ => 0
  | .encrypt _ => 0
  | .decrypt _ => 0
  | .new _ => 0

/-- Whether a command that answers `OK` has a result at all: KEYGEN and NEW have none (R61). -/
def Instr.hasResult : Instr → Bool
  | .keygen _ => false
  | .new _ => false
  | .enc _ => true
  | .dec _ => true
  | .f _ _ => true
  | .subst _ => true
  | .rdsk _ => true
  | .permIp _ => true
  | .permFp _ => true
  | .permE _ => true
  | .permP _ => true
  | .permPc1 _ => true
  | .permPc2 _ => true
  | .pad _ => true
  | .unpad _ => true
  | .encrypt _ => true
  | .decrypt _ => true

/-- A response to a command as R70 writes it: `-> OK value`, `-> OK [bytes]`, `-> OK` or `-> <ErrorName>`. -/
def Instr.writtenResponse (i : Instr) (r : Response) : List Char :=
  let value := match r with
    | .word _ v => "0x".toList ++ hexDigits (i.resultBits / 4) v.toNat
    | .buffer _ d => writtenBytes d
  "-> ".toList ++ r.status.name ++
    if r.status = .ok ∧ i.hasResult then " ".toList ++ value else []

end Sys2Proof
end

