-- ==== Sys2Proof/Machine/Operands.lean ====
section
/-! DEFINITION. Operand and result assembly: bytes and words (R40, R41), halves (R43), S-box groups (R129, R130), chunks and
zero fill (R166, R167), zero extension of results (R64). -/

namespace Sys2Proof.Machine

/-- `be64(b)`: the first of eight bytes is the most significant (R40; used for blocks too, R41, log 13). -/
def be64 (b : List Byte) : Block :=
  BitVec.ofNat 64 (beNat b)

/-- `bytes64(w) = [w[63:56], ..., w[7:0]]` (R40). -/
def bytes64 (w : Block) : List Byte :=
  [w.extractLsb' 56 8, w.extractLsb' 48 8, w.extractLsb' 40 8, w.extractLsb' 32 8,
   w.extractLsb' 24 8, w.extractLsb' 16 8, w.extractLsb' 8 8, w.extractLsb' 0 8]

/-- `zext_64(v)`: a result of at most 64 bits in the `result` field (R15, R64). -/
def zext64 {n : Nat} (v : BitVec n) : Block :=
  v.setWidth 64

/-- "left is bits [63:32]" (R43). -/
def leftHalf (w : Block) : Half :=
  w.extractLsb' 32 32

/-- "right is bits [31:0]" (R43). -/
def rightHalf (w : Block) : Half :=
  w.extractLsb' 0 32

/-- `C` is bits [55:28] of `CD` (R43, R102). -/
def leftKeyHalf (cd : KeyPair) : KeyHalf :=
  cd.extractLsb' 28 28

/-- `D` is bits [27:0] of `CD` (R43, R102). -/
def rightKeyHalf (cd : KeyPair) : KeyHalf :=
  cd.extractLsb' 0 28

/-- `g_b = x[47 - 6*(b-1) : 42 - 6*(b-1)]` with `i = b - 1`: the most significant group first (R130). -/
def sboxGroup (x : Subkey) (i : Fin 8) : Group :=
  x.extractLsb' (42 - 6 * i.val) 6

/-- `row(g) = 2 * g[5] + g[0]` (R129): the group's first, most significant bit is the row's high bit (C3). -/
def sboxRow (g : Group) : BitVec 2 :=
  BitVec.ofBool (g.getLsbD 5) ++ BitVec.ofBool (g.getLsbD 0)

/-- `col(g) = g[4:1]` (R129). -/
def sboxCol (g : Group) : Nibble :=
  g.extractLsb' 1 4

/-- The number `m = ceil(len / 8)` of chunks of a buffer (R166). -/
def chunkCount (len : Nat) : Nat :=
  (len + 7) / 8

/-- The consecutive chunks of a buffer: chunk `j` is bytes `8j` to `min(8j + 8, len) - 1` (R166). -/
def chunks (buf : List Byte) : List (List Byte) :=
  (List.range (chunkCount buf.length)).map fun j => (buf.drop (8 * j)).take 8

/-- A short chunk `c` becomes `c ++ rep(0x00, 8 - len(c))`: the zeros follow the data (R167; log 13). -/
def zeroFill (c : List Byte) : List Byte :=
  c ++ List.replicate (8 - c.length) 0

end Sys2Proof.Machine
end

