-- ==== Sys2Proof/Machine/Ops.lean ====
section
/-! DEFINITION. The shared operations over the state: writing and reading the subkey store (R21, R49), ending a command with a
response (R17, R65), taking an error (R196), the port (R12, R210). Errors are this hardware's only exceptions; nothing is saved
and there is no return from one (R196, R197). -/

namespace Sys2Proof.Machine

/-- The core gives one response (R60); the model records it after those given before. -/
def State.respond (s : State) (r : Response) : State :=
  { s with responses := s.responses ++ [r] }

/-- A key load: all sixteen registers written in one step and `KEY_VALID <- 1` (R21, R23). -/
def State.loadKey (s : State) (ks : SubkeySet) : State :=
  { s with subkeys := some ks }

/-- `return OK(v)` of a word command: the value zero-extended into `result` (R17, R64, R65). -/
def completeWord {n : Nat} (v : BitVec n) (s : State) : Outcome :=
  .next (s.respond (.word .ok (zext64 v)))

/-- `return OK(bytes)` of a buffer command (R17, R65). -/
def completeBuffer (data : List Byte) (s : State) : Outcome :=
  .next (s.respond (.buffer .ok data))

/-- The error response of a format: the status, `result = 0` or `rdata` empty (R65, R196 (b)). -/
def errorResponse (fmt : Format) (st : Status) : Response :=
  match fmt with
  | .word => .word st 0
  | .buffer => .buffer st []

/-- Taking an error, `raise <Error>`: the response in place of the normal one, `SUBKEY` and `KEY_VALID` as they were, nothing
saved, the core ready for the next command (R17, R196, R197). -/
def raise (fmt : Format) (st : Status) (s : State) : Outcome :=
  .next (s.respond (errorResponse fmt st))

/-- `if KEY_VALID = 0: raise NoKeyError`, else one snapshot of all sixteen registers for the whole command (R49, R194). -/
def withKey (fmt : Format) (run : SubkeySet → State → Outcome) (s : State) : Outcome :=
  match s.subkeys with
  | none => raise fmt .noKeyError s
  | some ks => run ks s

/-! The port. -/

/-- The core takes the event at the head of the port. -/
def State.take (s : State) (rest : List PortEvent) : State :=
  { s with pending := rest }

/-- Nothing is issued: the core is idle (R202) and "never acts on its own" (R10; log 3). -/
def idle (s : State) : Outcome :=
  .next s

/-- The reset of R210: `KEY_VALID <- 0`, every `SUBKEY[i]` without value, nothing else, no response (log 10). -/
def takeReset (s : State) : Outcome :=
  .next { s with subkeys := none }

/-- A command code outside the seventeen: `IllegalCommand`, in the format of its class (R60, R68, R195). -/
def rejectCommand (op : Byte) (s : State) : Outcome :=
  raise (formatOf op) .illegalCommand s

/-- Put a command at the head of the port, before everything else pending. -/
def State.issueFirst (s : State) (c : Command) : State :=
  { s with pending := .command c :: s.pending }

end Sys2Proof.Machine
end

