-- ==== Sys2Proof/Machine/Rom.lean ====
section
/-! DEFINITION. The constant tables (R29, R44 of spec/20_memory.md): read-only spaces the datapath reads by index, the same in
every state. Values as printed in spec/41_bit_permutation.md and spec/43_round_function.md, which supply them from general
knowledge (G1 to G7; log 11); the shift schedule is the source's (R100). -/

namespace Sys2Proof.Machine

/-- A PermutationTable of shape `W` to `n`: "Length = output width in bits; every entry in range [1, input width];
duplicates allowed by design" (R44, R82). A table that breaks this cannot be built (U5). Entry `i` is the DES position of
the input bit that becomes output DES position `i + 1`. -/
structure PermTable (W n : Nat) where
  entries : List Nat
  length_eq : entries.length = n
  inRange : ∀ p ∈ entries, 1 ≤ p ∧ p ≤ W
deriving DecidableEq

/-- `ROM.IP`: Initial Permutation, 64 to 64 (R84). -/
def ROM.IP : PermTable 64 64 where
  entries :=
    [58, 50, 42, 34, 26, 18, 10,  2] ++
    [60, 52, 44, 36, 28, 20, 12,  4] ++
    [62, 54, 46, 38, 30, 22, 14,  6] ++
    [64, 56, 48, 40, 32, 24, 16,  8] ++
    [57, 49, 41, 33, 25, 17,  9,  1] ++
    [59, 51, 43, 35, 27, 19, 11,  3] ++
    [61, 53, 45, 37, 29, 21, 13,  5] ++
    [63, 55, 47, 39, 31, 23, 15,  7]
  length_eq := by decide
  inRange := by decide

/-- `ROM.FP`: Final Permutation, the inverse of IP, 64 to 64 (R85). -/
def ROM.FP : PermTable 64 64 where
  entries :=
    [40,  8, 48, 16, 56, 24, 64, 32] ++
    [39,  7, 47, 15, 55, 23, 63, 31] ++
    [38,  6, 46, 14, 54, 22, 62, 30] ++
    [37,  5, 45, 13, 53, 21, 61, 29] ++
    [36,  4, 44, 12, 52, 20, 60, 28] ++
    [35,  3, 43, 11, 51, 19, 59, 27] ++
    [34,  2, 42, 10, 50, 18, 58, 26] ++
    [33,  1, 41,  9, 49, 17, 57, 25]
  length_eq := by decide
  inRange := by decide

/-- `ROM.E`: Expansion, 32 to 48 (R86). -/
def ROM.E : PermTable 32 48 where
  entries :=
    [32,  1,  2,  3,  4,  5] ++
    [ 4,  5,  6,  7,  8,  9] ++
    [ 8,  9, 10, 11, 12, 13] ++
    [12, 13, 14, 15, 16, 17] ++
    [16, 17, 18, 19, 20, 21] ++
    [20, 21, 22, 23, 24, 25] ++
    [24, 25, 26, 27, 28, 29] ++
    [28, 29, 30, 31, 32,  1]
  length_eq := by decide
  inRange := by decide

/-- `ROM.P`: the permutation of the round function, 32 to 32 (R87). -/
def ROM.P : PermTable 32 32 where
  entries :=
    [16,  7, 20, 21] ++
    [29, 12, 28, 17] ++
    [ 1, 15, 23, 26] ++
    [ 5, 18, 31, 10] ++
    [ 2,  8, 24, 14] ++
    [32, 27,  3,  9] ++
    [19, 13, 30,  6] ++
    [22, 11,  4, 25]
  length_eq := by decide
  inRange := by decide

/-- `ROM.PC1`: Permutation Choice 1, 64 to 56 (R88). -/
def ROM.PC1 : PermTable 64 56 where
  entries :=
    [57, 49, 41, 33, 25, 17,  9] ++
    [ 1, 58, 50, 42, 34, 26, 18] ++
    [10,  2, 59, 51, 43, 35, 27] ++
    [19, 11,  3, 60, 52, 44, 36] ++
    [63, 55, 47, 39, 31, 23, 15] ++
    [ 7, 62, 54, 46, 38, 30, 22] ++
    [14,  6, 61, 53, 45, 37, 29] ++
    [21, 13,  5, 28, 20, 12,  4]
  length_eq := by decide
  inRange := by decide

/-- `ROM.PC2`: Permutation Choice 2, 56 to 48 (R89). -/
def ROM.PC2 : PermTable 56 48 where
  entries :=
    [14, 17, 11, 24,  1,  5] ++
    [ 3, 28, 15,  6, 21, 10] ++
    [23, 19, 12,  4, 26,  8] ++
    [16,  7, 27, 20, 13,  2] ++
    [41, 52, 31, 37, 47, 55] ++
    [30, 40, 51, 45, 33, 48] ++
    [44, 49, 39, 56, 34, 53] ++
    [46, 42, 50, 36, 29, 32]
  length_eq := by decide
  inRange := by decide

/-- `ROM.SHIFT`: "1 bit for rounds {1,2,9,16}, 2 bits otherwise (1-indexed)", indexed by round - 1 (R100). -/
def ROM.SHIFT : Vector Nat 16 :=
  #v[1, 1, 2, 2, 2, 2, 2, 2, 1, 2, 2, 2, 2, 2, 2, 1]

/-- SBox: "4×16 matrix of 4-bit values", read at (row, column) (R45). -/
abbrev SBox := Vector (Vector Nibble 16) 4

/-- `ROM.S[1]` (R121). -/
def ROM.S1 : SBox :=
  #v[#v[14,  4, 13,  1,  2, 15, 11,  8,  3, 10,  6, 12,  5,  9,  0,  7],
     #v[ 0, 15,  7,  4, 14,  2, 13,  1, 10,  6, 12, 11,  9,  5,  3,  8],
     #v[ 4,  1, 14,  8, 13,  6,  2, 11, 15, 12,  9,  7,  3, 10,  5,  0],
     #v[15, 12,  8,  2,  4,  9,  1,  7,  5, 11,  3, 14, 10,  0,  6, 13]]

/-- `ROM.S[2]` (R122). -/
def ROM.S2 : SBox :=
  #v[#v[15,  1,  8, 14,  6, 11,  3,  4,  9,  7,  2, 13, 12,  0,  5, 10],
     #v[ 3, 13,  4,  7, 15,  2,  8, 14, 12,  0,  1, 10,  6,  9, 11,  5],
     #v[ 0, 14,  7, 11, 10,  4, 13,  1,  5,  8, 12,  6,  9,  3,  2, 15],
     #v[13,  8, 10,  1,  3, 15,  4,  2, 11,  6,  7, 12,  0,  5, 14,  9]]

/-- `ROM.S[3]` (R123). -/
def ROM.S3 : SBox :=
  #v[#v[10,  0,  9, 14,  6,  3, 15,  5,  1, 13, 12,  7, 11,  4,  2,  8],
     #v[13,  7,  0,  9,  3,  4,  6, 10,  2,  8,  5, 14, 12, 11, 15,  1],
     #v[13,  6,  4,  9,  8, 15,  3,  0, 11,  1,  2, 12,  5, 10, 14,  7],
     #v[ 1, 10, 13,  0,  6,  9,  8,  7,  4, 15, 14,  3, 11,  5,  2, 12]]

/-- `ROM.S[4]` (R124). -/
def ROM.S4 : SBox :=
  #v[#v[ 7, 13, 14,  3,  0,  6,  9, 10,  1,  2,  8,  5, 11, 12,  4, 15],
     #v[13,  8, 11,  5,  6, 15,  0,  3,  4,  7,  2, 12,  1, 10, 14,  9],
     #v[10,  6,  9,  0, 12, 11,  7, 13, 15,  1,  3, 14,  5,  2,  8,  4],
     #v[ 3, 15,  0,  6, 10,  1, 13,  8,  9,  4,  5, 11, 12,  7,  2, 14]]

/-- `ROM.S[5]` (R125). -/
def ROM.S5 : SBox :=
  #v[#v[ 2, 12,  4,  1,  7, 10, 11,  6,  8,  5,  3, 15, 13,  0, 14,  9],
     #v[14, 11,  2, 12,  4,  7, 13,  1,  5,  0, 15, 10,  3,  9,  8,  6],
     #v[ 4,  2,  1, 11, 10, 13,  7,  8, 15,  9, 12,  5,  6,  3,  0, 14],
     #v[11,  8, 12,  7,  1, 14,  2, 13,  6, 15,  0,  9, 10,  4,  5,  3]]

/-- `ROM.S[6]` (R126). -/
def ROM.S6 : SBox :=
  #v[#v[12,  1, 10, 15,  9,  2,  6,  8,  0, 13,  3,  4, 14,  7,  5, 11],
     #v[10, 15,  4,  2,  7, 12,  9,  5,  6,  1, 13, 14,  0, 11,  3,  8],
     #v[ 9, 14, 15,  5,  2,  8, 12,  3,  7,  0,  4, 10,  1, 13, 11,  6],
     #v[ 4,  3,  2, 12,  9,  5, 15, 10, 11, 14,  1,  7,  6,  0,  8, 13]]

/-- `ROM.S[7]` (R127). -/
def ROM.S7 : SBox :=
  #v[#v[ 4, 11,  2, 14, 15,  0,  8, 13,  3, 12,  9,  7,  5, 10,  6,  1],
     #v[13,  0, 11,  7,  4,  9,  1, 10, 14,  3,  5, 12,  2, 15,  8,  6],
     #v[ 1,  4, 11, 13, 12,  3,  7, 14, 10, 15,  6,  8,  0,  5,  9,  2],
     #v[ 6, 11, 13,  8,  1,  4, 10,  7,  9,  5,  0, 15, 14,  2,  3, 12]]

/-- `ROM.S[8]` (R128). -/
def ROM.S8 : SBox :=
  #v[#v[13,  2,  8,  4,  6, 15, 11,  1, 10,  9,  3, 14,  5,  0, 12,  7],
     #v[ 1, 15, 13,  8, 10,  3,  7,  4, 12,  5,  6, 11,  0, 14,  9,  2],
     #v[ 7, 11,  4,  1,  9, 12, 14,  2,  0,  6, 10, 13, 15,  3,  5,  8],
     #v[ 2,  1, 14,  7,  4, 10,  8, 13, 15, 12,  9,  0,  3,  5,  6, 11]]

/-- `ROM.S[b]` for `b = i + 1`: the eight independent boxes in order. -/
def ROM.S : Vector SBox 8 :=
  #v[ROM.S1, ROM.S2, ROM.S3, ROM.S4, ROM.S5, ROM.S6, ROM.S7, ROM.S8]

end Sys2Proof.Machine
end

