-- ==== Sys2Proof/Machine/Permutation.lean ====
section
/-! DEFINITION. The bit permutation unit (spec/41_bit_permutation.md): `permute` and the six PERM commands. -/

namespace Sys2Proof.Machine

/-- `permute_W(input, table)` (R80): output bit `i`, counted from the most significant, is the input bit at DES position
`table[i]`, `inputBit(p) = (input >> (W - p)) & 1` with `W` the width of the input itself (R81, R83). -/
def permute {W n : Nat} (t : PermTable W n) (x : BitVec W) : BitVec n :=
  (BitVec.ofBoolListBE (t.entries.map fun p => x.getLsbD (W - p))).cast (by simp [t.length_eq])

/-- PERM.IP (R90). -/
def execPermIp (x : Block) (s : State) : Outcome :=
  completeWord (permute ROM.IP x) s

/-- PERM.FP (R91). -/
def execPermFp (x : Block) (s : State) : Outcome :=
  completeWord (permute ROM.FP x) s

/-- PERM.E, the source's "expand" (R92). -/
def execPermE (x : Half) (s : State) : Outcome :=
  completeWord (permute ROM.E x) s

/-- PERM.P (R93). -/
def execPermP (x : Half) (s : State) : Outcome :=
  completeWord (permute ROM.P x) s

/-- PERM.PC1 (R94). It loads no key. -/
def execPermPc1 (x : Block) (s : State) : Outcome :=
  completeWord (permute ROM.PC1 x) s

/-- PERM.PC2 (R95). -/
def execPermPc2 (x : KeyPair) (s : State) : Outcome :=
  completeWord (permute ROM.PC2 x) s

end Sys2Proof.Machine
end

