-- ==== Sys2Proof/Machine/KeySchedule.lean ====
section
/-! DEFINITION. The key schedule (spec/42_key_schedule.md): rotation, halves, `generateSubkeys`, and KEYGEN, NEW, RDSK. -/

namespace Sys2Proof.Machine

/-- `rotl28(v, s) = ((v << s) mod 2^28) + (v >> (28 - s))` (R101). -/
def rotl28 (v : KeyHalf) (s : Nat) : KeyHalf :=
  (v <<< s) + (v >>> (28 - s))

/-- `shift(n) = ROM.SHIFT[n-1]` for round `n` in 1..16 (R100). -/
def shift (n : Nat) : Nat :=
  ROM.SHIFT.toList.getD (n - 1) 0

/-- `(C_n, D_n)`: after PC-1 (R102) for `n = 0`, then each half rotated on its own, round by round (R103). -/
def keyHalves (key : Block) : Nat → KeyHalf × KeyHalf
  | 0 =>
    let cd := permute ROM.PC1 key
    (leftKeyHalf cd, rightKeyHalf cd)
  | n + 1 =>
    let h := keyHalves key n
    (rotl28 h.1 (shift (n + 1)), rotl28 h.2 (shift (n + 1)))

/-- `K_n = permute_56(C_n ‖ D_n, ROM.PC2)` (R103). -/
def roundSubkey (key : Block) (n : Nat) : Subkey :=
  let h := keyHalves key n
  permute ROM.PC2 (h.1 ++ h.2)

/-- `generateSubkeys(key) = [K_1, ..., K_16]`, index `n - 1` holding `K_n` (R103). -/
def generateSubkeys (key : Block) : SubkeySet :=
  Vector.ofFn fun i => roundSubkey key (i.val + 1)

/-- KEYGEN (R104): the key load, and a response with no data. -/
def execKeygen (key : Block) (s : State) : Outcome :=
  completeWord (0 : Block) (s.loadKey (generateSubkeys key))

/-- NEW (R106): `KeyLengthError` unless there are exactly 8 key bytes; else the key load of their big-endian word. -/
def execNew (data : List Byte) (s : State) : Outcome :=
  if data.length ≠ 8 then raise .buffer .keyLengthError s
  else completeBuffer [] (s.loadKey (generateSubkeys (be64 data)))

/-- RDSK (R107): one subkey register, or `NoKeyError`. -/
def execRdsk (i : Fin 16) (s : State) : Outcome :=
  withKey .word (fun ks s => completeWord ks[i] s) s

end Sys2Proof.Machine
end

