-- ==== Sys2Proof/Machine/RoundFunction.lean ====
section
/-! DEFINITION. The round function (spec/43_round_function.md): S-box lookup, `substitute`, `f`, and SUBST, F. -/

namespace Sys2Proof.Machine

/-- `ROM.S[b][row(g)][col(g)]` with `b = i + 1` (R45, R129, R131). -/
def sboxOut (i : Fin 8) (g : Group) : Nibble :=
  (ROM.S[i][(sboxRow g).toNat]'(sboxRow g).isLt)[(sboxCol g).toNat]'(sboxCol g).isLt

/-- `substitute(x) = s_1 ‖ ... ‖ s_8`, group `b` through box `b` (R130, R131). -/
def substitute (x : Subkey) : Half :=
  sboxOut 0 (sboxGroup x 0) ++ sboxOut 1 (sboxGroup x 1) ++ sboxOut 2 (sboxGroup x 2) ++ sboxOut 3 (sboxGroup x 3) ++
  sboxOut 4 (sboxGroup x 4) ++ sboxOut 5 (sboxGroup x 5) ++ sboxOut 6 (sboxGroup x 6) ++ sboxOut 7 (sboxGroup x 7)

/-- `f(right, subkey)`: expand, xor, substitute, permute (R134). -/
def roundF (right : Half) (subkey : Subkey) : Half :=
  permute ROM.P (substitute (permute ROM.E right ^^^ subkey))

/-- SUBST, the source's "substitute" (R132). -/
def execSubst (x : Subkey) (s : State) : Outcome :=
  completeWord (substitute x) s

/-- F (R133). The subkey is an operand; `SUBKEY` is not read. -/
def execF (right : Half) (subkey : Subkey) (s : State) : Outcome :=
  completeWord (roundF right subkey) s

end Sys2Proof.Machine
end

