-- ==== Sys2Proof/Machine/BlockCipher.lean ====
section
/-! DEFINITION. The block operation (spec/44_block_cipher.md): `processBlock`, and ENC, DEC. -/

namespace Sys2Proof.Machine

/-- The subkey of round `r + 1`: `subkeys[r]` when encrypting, `subkeys[15 - r]` when decrypting (R143). -/
def roundKey (ks : SubkeySet) (decrypt : Bool) (r : Fin 16) : Subkey :=
  if decrypt then ks[15 - r.val] else ks[r.val]

/-- One round: `L_r = R_(r-1)`, `R_r = L_(r-1) xor f(R_(r-1), k)`, both from the values before the round (R141). -/
def feistelRound (ks : SubkeySet) (decrypt : Bool) (lr : Half × Half) (r : Fin 16) : Half × Half :=
  (lr.2, lr.1 ^^^ roundF lr.2 (roundKey ks decrypt r))

/-- "For round *r* in 1..16": the fixed list of rounds, counted from 0 (R24, R147). -/
def rounds : List (Fin 16) :=
  [0, 1, 2, 3, 4, 5, 6, 7, 8, 9, 10, 11, 12, 13, 14, 15]

/-- `processBlock(block, subkeys, decrypt)`: IP and split (R142), sixteen rounds (R141, R143), `R ‖ L` and FP (R144). -/
def processBlock (block : Block) (ks : SubkeySet) (decrypt : Bool) : Block :=
  let ip := permute ROM.IP block
  let lr := rounds.foldl (feistelRound ks decrypt) (leftHalf ip, rightHalf ip)
  permute ROM.FP (lr.2 ++ lr.1)

/-- ENC (R145): direction bit 0. -/
def execEnc (block : Block) (s : State) : Outcome :=
  withKey .word (fun ks s => completeWord (processBlock block ks false) s) s

/-- DEC (R146): direction bit 1. -/
def execDec (block : Block) (s : State) : Outcome :=
  withKey .word (fun ks s => completeWord (processBlock block ks true) s) s

end Sys2Proof.Machine
end

