-- ==== Sys2Proof/Machine/Buffers.lean ====
section
/-! DEFINITION. The padding codec and the block driver (spec/45_padding_and_driver.md): `pad`, `unpad`, `transform`, and PAD,
UNPAD, ENCRYPT, DECRYPT. The two are independent: ENCRYPT does not pad, DECRYPT does not unpad. -/

namespace Sys2Proof.Machine

/-- `n = 8 - (len mod 8)`, in 1..8 (R160). -/
def padLength (len : Nat) : Nat :=
  8 - len % 8

/-- `pad(x) = x ++ rep(n, n)` (R161). -/
def padBytes (x : List Byte) : List Byte :=
  x ++ List.replicate (padLength x.length) (BitVec.ofNat 8 (padLength x.length))

/-- The checked `unpad(x)` (R164); `none` is `PaddingError`: no last byte, a count outside 1..8, a count above the length, or
a padding byte that differs from the count. -/
def unpadBytes (x : List Byte) : Option (List Byte) :=
  match x.getLast? with
  | none => none
  | some last =>
    let n := last.toNat
    if n < 1 ∨ 8 < n then none
    else if x.length < n then none
    else if (x.drop (x.length - n)).all (· == last) then some (x.take (x.length - n))
    else none

/-- One chunk, zero-filled, through `processBlock` (R168). -/
def transformChunk (ks : SubkeySet) (decrypt : Bool) (c : List Byte) : List Byte :=
  bytes64 (processBlock (be64 (zeroFill c)) ks decrypt)

/-- `transform(buffer, subkeys, decrypt)`: each chunk on its own, outputs in input order, no chaining (R168, R169). -/
def transform (buf : List Byte) (ks : SubkeySet) (decrypt : Bool) : List Byte :=
  (chunks buf).flatMap (transformChunk ks decrypt)

/-- PAD (R162). -/
def execPad (data : List Byte) (s : State) : Outcome :=
  completeBuffer (padBytes data) s

/-- UNPAD (R164). -/
def execUnpad (data : List Byte) (s : State) : Outcome :=
  match unpadBytes data with
  | none => raise .buffer .paddingError s
  | some y => completeBuffer y s

/-- ENCRYPT (R170): no length is refused. -/
def execEncrypt (data : List Byte) (s : State) : Outcome :=
  withKey .buffer (fun ks s => completeBuffer (transform data ks false) s) s

/-- DECRYPT (R171): `NoKeyError` first, then `BlockLengthError` (R192). -/
def execDecrypt (data : List Byte) (s : State) : Outcome :=
  withKey .buffer (fun ks s =>
    if data.length % 8 ≠ 0 then raise .buffer .blockLengthError s
    else completeBuffer (transform data ks true) s) s

end Sys2Proof.Machine
end

