-- ==== Sys2Proof/Machine/Dispatch.lean ====
section
/-! DEFINITION. One arm per command (R61). -/

namespace Sys2Proof.Machine

def exec (i : Instr) (s : State) : Host.Outcome State Fault Refusal :=
  match i with
  | .keygen key => Sys2Proof.Machine.execKeygen key s
  | .enc block => Sys2Proof.Machine.execEnc block s
  | .dec block => Sys2Proof.Machine.execDec block s
  | .f right subkey => Sys2Proof.Machine.execF right subkey s
  | .subst x => Sys2Proof.Machine.execSubst x s
  | .rdsk k => Sys2Proof.Machine.execRdsk k s
  | .permIp x => Sys2Proof.Machine.execPermIp x s
  | .permFp x => Sys2Proof.Machine.execPermFp x s
  | .permE x => Sys2Proof.Machine.execPermE x s
  | .permP x => Sys2Proof.Machine.execPermP x s
  | .permPc1 x => Sys2Proof.Machine.execPermPc1 x s
  | .permPc2 x => Sys2Proof.Machine.execPermPc2 x s
  | .pad data => Sys2Proof.Machine.execPad data s
  | .unpad data => Sys2Proof.Machine.execUnpad data s
  | .encrypt data => Sys2Proof.Machine.execEncrypt data s
  | .decrypt data => Sys2Proof.Machine.execDecrypt data s
  | .new data => Sys2Proof.Machine.execNew data s

end Sys2Proof.Machine
end

