-- ==== Sys2Proof/Machine/Step.lean ====
section
/-! DEFINITION. One step is one whole command, or one reset between two commands (R12, R210). Decoding is R73. -/

namespace Sys2Proof.Machine

/-- One step: the event at the head of the port. -/
def step (s : State) : Host.Outcome State Fault Refusal :=
  match s.pending with
  | [] => idle s
  | .reset :: rest => takeReset (s.take rest)
  | .command c :: rest =>
    match decode c with
    | .ok i => exec i (s.take rest)
    | .error _ => rejectCommand c.op (s.take rest)

/-- `s` with the instruction of a table word issued as the next command: the host's port is where this hardware finds what
to run (log 1, log 7). -/
def State.withFetchWord (s : State) (nbits w : Nat) : State :=
  s.issueFirst (tableCommand nbits w)

end Sys2Proof.Machine
end

