-- ==== Sys2Proof/Safety.lean ====
section
/-! DEFINITION. The terms claims use: what a command answers and leaves unchanged, the invariants, runs (R217) and safe runs. -/

namespace Sys2Proof.Machine

/-- The command ends in a next state that differs from the old one by the response `r` alone: `SUBKEY`, `KEY_VALID`, the port
and all earlier responses are as before. -/
def Answers (i : Instr) (s : State) (r : Response) : Prop :=
  exec i s = .next { s with responses := s.responses ++ [r] }

/-- The command ends in a next state in which `SUBKEY` is `ks`, `KEY_VALID` is 1, `r` is the response and nothing else
changed. -/
def Loads (i : Instr) (s : State) (ks : SubkeySet) (r : Response) : Prop :=
  exec i s = .next { s with subkeys := some ks, responses := s.responses ++ [r] }

/-- R31: a SubkeySet that is held is the key schedule of some 64-bit key. -/
def State.keyScheduleInv (s : State) : Prop :=
  ∀ ks, s.subkeys = some ks → ∃ key : Block, ks = generateSubkeys key

/-- R65, R196 (b): every response given so far that is not `OK` carries no data. -/
def State.errorsCarryNoData (s : State) : Prop :=
  ∀ r ∈ s.responses, r.status ≠ .ok → r.noData = true

/-- A start in the sense of R217: the reset state, with the events the host will cause already at the port. -/
def State.boot (events : List PortEvent) : State :=
  { State.reset with pending := events }

/-- `n` steps from `s` end in `t`. -/
def RunsTo (n : Nat) (s t : State) : Prop :=
  Host.Core.run Sys2Proof.core n s = .next t

/-- A safe run so far: no command was answered with an error. R194 allows a model to count an error as a fault in this sense. -/
def State.safe (s : State) : Prop :=
  ∀ r ∈ s.responses, r.status = .ok

/-- With the SubkeySet `ks` loaded, whatever else the state holds, the buffer command answers `OK` with `y` and changes
nothing else. -/
def AnswersBuffer (i : Instr) (ks : SubkeySet) (y : List Byte) : Prop :=
  ∀ s : State, s.subkeys = some ks → Answers i s (.buffer .ok y)

/-- With the SubkeySet `ks` loaded, whatever else the state holds, the word command answers `OK` with `v` and changes nothing
else. -/
def AnswersWord (i : Instr) (ks : SubkeySet) (v : Block) : Prop :=
  ∀ s : State, s.subkeys = some ks → Answers i s (.word .ok v)

/-- The seventeen command codes of R61. -/
def commandCodes : List Byte :=
  [0x01, 0x02, 0x03, 0x04, 0x05, 0x06] ++ [0x10, 0x11, 0x12, 0x13, 0x14, 0x15] ++ [0x20, 0x21, 0x22, 0x23, 0x24]

/-- The codes of the commands that need a key (R22, R194): ENC, DEC, RDSK, ENCRYPT, DECRYPT. -/
def keyedCodes : List Byte :=
  [0x02, 0x03, 0x06, 0x22, 0x23]

/-- The commands that neither read nor write `SUBKEY` (R21): F, SUBST, PERM.*, PAD, UNPAD. -/
def isStateless : Instr → Bool
  | .keygen _ => false
  | .enc _ => false
  | .dec _ => false
  | .f _ _ => true
  | .subst _ => true
  | .rdsk _ => false
  | .permIp _ => true
  | .permFp _ => true
  | .permE _ => true
  | .permP _ => true
  | .permPc1 _ => true
  | .permPc2 _ => true
  | .pad _ => true
  | .unpad _ => true
  | .encrypt _ => false
  | .decrypt _ => false
  | .new _ => false

/-- How many low bits of `a` and of `b` are the operands of a command code, and whether `data` is (R61). -/
def operandSlices (op : Byte) : Nat × Nat × Bool :=
  if op ∈ [0x01#8, 0x02#8, 0x03#8, 0x10#8, 0x11#8, 0x14#8] then (64, 0, false)
  else if op ∈ [0x12#8, 0x13#8] then (32, 0, false)
  else if op = 0x04#8 then (32, 48, false)
  else if op = 0x05#8 then (0, 48, false)
  else if op = 0x06#8 then (4, 0, false)
  else if op = 0x15#8 then (56, 0, false)
  else (0, 0, true)

/-- `x` ends in a valid pad: `y` followed by `n` bytes each equal to `n`, `n` in 1..8 (R161, R164). -/
def EndsInPad (x y : List Byte) : Prop :=
  ∃ n : Nat, 1 ≤ n ∧ n ≤ 8 ∧ x = y ++ List.replicate n (BitVec.ofNat 8 n)

/-- The number of 1 bits of a word (R97 (d)). -/
def onesCount {n : Nat} (x : BitVec n) : Nat :=
  (List.range n).countP fun i => x.getLsbD i

/-- A table whose entries are a rearrangement of all positions 1..W (R97 (c)). -/
def PermTable.bijective {n : Nat} (t : PermTable n n) : Prop :=
  t.entries.Perm ((List.range n).map (· + 1))

end Sys2Proof.Machine
end

