-- ==== Sys2Proof/WellFormed.lean ====
section
/-! DEFINITION. What a host may send: a command within the implementation's buffer bound (R9), and a command record in the
exact form of R60 and R64. The core itself asks for none of it: it ignores surplus bits (R64) and answers every command. -/

namespace Sys2Proof

/-- The buffer operand of a command, if it has one. -/
def Instr.buffer? : Instr → Option (List Byte)
  | .keygen _ => none
  | .enc _ => none
  | .dec _ => none
  | .f _ _ => none
  | .subst _ => none
  | .rdsk _ => none
  | .permIp _ => none
  | .permFp _ => none
  | .permE _ => none
  | .permP _ => none
  | .permPc1 _ => none
  | .permPc2 _ => none
  | .pad d => some d
  | .unpad d => some d
  | .encrypt d => some d
  | .decrypt d => some d
  | .new d => some d

/-- A command whose buffer an implementation carries: within `MAX_BUF_LEN` where there is one (R9), and of a length that the
packed length field can hold (R66). Operand widths need no check: they are exact by type (R64). -/
def Instr.wellFormed (cfg : Config) (i : Instr) : Bool :=
  match i.buffer? with
  | none => true
  | some d =>
    (match cfg.maxBufLen with
      | none => true
      | some m => decide (d.length ≤ m)) && decide (d.length < 256 ^ cfg.port.lenBytes)

/-- The fields of the other format are empty, so that the record is one of the two records of R60. -/
def Command.oneFormat (c : Command) : Bool :=
  match formatOf c.op with
  | .word => c.data == []
  | .buffer => c.a == 0 && c.b == 0

/-- The bits of `a` and `b` outside the operand slices of R61 are zero, as "a host should send them" (R64). Of a code that
is no command nothing is asked. -/
def Command.surplusZero (c : Command) : Bool :=
  match c.op with
  | 0x04#8 => c.a.extractLsb' 32 32 == 0
  | 0x05#8 => c.a == 0
  | 0x06#8 => c.a.extractLsb' 4 60 == 0 && c.b == 0
  | 0x12#8 => c.a.extractLsb' 32 32 == 0 && c.b == 0
  | 0x13#8 => c.a.extractLsb' 32 32 == 0 && c.b == 0
  | 0x15#8 => c.a.extractLsb' 56 8 == 0 && c.b == 0
  | 0x01#8 => c.b == 0
  | 0x02#8 => c.b == 0
  | 0x03#8 => c.b == 0
  | 0x10#8 => c.b == 0
  | 0x11#8 => c.b == 0
  | 0x14#8 => c.b == 0
  | _ => true

/-- A record in the exact form of R60 and R64, of a code that is a command. -/
def Command.wellFormed (c : Command) : Bool :=
  c.oneFormat && c.surplusZero && (decode c).isOk

end Sys2Proof
end

