-- ==== Sys2Proof/Certificates/Slice0/Obligations.lean ====
section
/-! DEFINITION. The statements for the provers. `Answers i s r` says that command `i` at state `s` ends in a next state that
differs from `s` by the response `r` alone; so each statement with it is a completion statement and a frame in one. -/

open Sys2Proof Sys2Proof.Machine

/-! ## The bit permutation unit -/

/-- R80. Output bit `i`, 0-indexed from the most significant, is `(input >> (W - table[i])) & 1`. -/
def Obligations.PermuteSelectsDesPositions : Prop :=
  ∀ (W n : Nat) (t : PermTable W n) (x : BitVec W) (i : Nat) (h : i < t.entries.length),
    (permute t x).getLsbD (n - 1 - i) = decide (x.toNat >>> (W - t.entries[i]) % 2 = 1)

/-- R97, laws (a) to (d). -/
def Obligations.PermuteLaws : Prop :=
  (∀ (W n : Nat) (t : PermTable W n) (x y : BitVec W), permute t (x ^^^ y) = permute t x ^^^ permute t y) ∧
  (∀ (W n : Nat) (t : PermTable W n), permute t 0 = 0 ∧ permute t (BitVec.allOnes W) = BitVec.allOnes n) ∧
  (∀ (W : Nat) (t t' : PermTable W W), t.bijective →
    (∀ (i : Nat) (h : i < t.entries.length), t'.entries.getD (t.entries[i] - 1) 0 = i + 1) →
    ∀ x, permute t' (permute t x) = x) ∧
  (∀ (W : Nat) (t : PermTable W W), t.bijective → ∀ x, onesCount (permute t x) = onesCount x)

/-- R84, R85, R86 (closed forms, the inverse, the duplicated positions), R96, and the unread positions of R88 and R89. -/
def Obligations.TablesMeetTheirProperties : Prop :=
  (∀ row < 4, ∀ col < 8, ROM.IP.entries.getD (8 * row + col) 0 + 8 * col = 58 + 2 * row) ∧
  (∀ row < 4, ∀ col < 8, ROM.IP.entries.getD (8 * (row + 4) + col) 0 + 8 * col = 57 + 2 * row) ∧
  (∀ i < 64, ROM.FP.entries.getD (ROM.IP.entries.getD i 0 - 1) 0 = i + 1 ∧
    ROM.IP.entries.getD (ROM.FP.entries.getD i 0 - 1) 0 = i + 1) ∧
  (∀ row < 8, ∀ col < 6, ROM.E.entries.getD (6 * row + col) 0 = (4 * row + col + 31) % 32 + 1) ∧
  (∀ p < 33, p ≠ 0 → ROM.E.entries.count p =
    if p ∈ [1, 4, 5, 8, 9, 12, 13, 16, 17, 20, 21, 24, 25, 28, 29, 32] then 2 else 1) ∧
  ROM.IP.bijective ∧ ROM.FP.bijective ∧ ROM.P.bijective ∧
  ROM.PC1.entries.Nodup ∧ (∀ p ∈ ROM.PC1.entries, p % 8 ≠ 0) ∧
  ROM.PC2.entries.Nodup ∧ (∀ p ∈ [9, 18, 22, 25, 35, 38, 43, 54], p ∉ ROM.PC2.entries) ∧
  (∀ p ∈ ROM.PC2.entries.take 24, p ≤ 28) ∧ (∀ p ∈ ROM.PC2.entries.drop 24, 29 ≤ p) ∧
  (∀ p ∈ ROM.IP.entries ++ ROM.FP.entries ++ ROM.PC1.entries, 1 ≤ p ∧ p ≤ 64) ∧
  (∀ p ∈ ROM.E.entries ++ ROM.P.entries, 1 ≤ p ∧ p ≤ 32) ∧ (∀ p ∈ ROM.PC2.entries, 1 ≤ p ∧ p ≤ 56) ∧
  ROM.IP.entries.length = 64 ∧ ROM.FP.entries.length = 64 ∧ ROM.E.entries.length = 48 ∧
  ROM.P.entries.length = 32 ∧ ROM.PC1.entries.length = 56 ∧ ROM.PC2.entries.length = 48

/-- R90: encoding, result, corner cases, worked example, in every state. -/
def Obligations.PermIpCommand : Prop :=
  (formatOf 0x10 = .word ∧ ∀ a b d, decode ⟨0x10, a, b, d⟩ = .ok (.permIp a)) ∧
  (∀ s x, ∃ v : Block, Answers (.permIp x) s (.word .ok v) ∧
    ∀ j < 64, v.getMsbD j = x.getMsbD (ROM.IP.entries.getD j 0 - 1)) ∧
  (∀ s, Answers (.permIp 0) s (.word .ok 0) ∧
    Answers (.permIp (BitVec.allOnes 64)) s (.word .ok (BitVec.allOnes 64)) ∧
    Answers (.permIp 0x8000000000000000) s (.word .ok 0x0000000001000000) ∧
    Answers (.permIp 0x0000000000000001) s (.word .ok 0x0000008000000000) ∧
    Answers (.permIp 0x0123456789ABCDEF) s (.word .ok 0xCC00CCFFF0AAF0AA))

/-- R91: encoding, result, corner cases, worked example, and that PERM.FP undoes PERM.IP and the reverse. -/
def Obligations.PermFpCommand : Prop :=
  (formatOf 0x11 = .word ∧ ∀ a b d, decode ⟨0x11, a, b, d⟩ = .ok (.permFp a)) ∧
  (∀ s x, ∃ v : Block, Answers (.permFp x) s (.word .ok v) ∧
    ∀ j < 64, v.getMsbD j = x.getMsbD (ROM.FP.entries.getD j 0 - 1)) ∧
  (∀ s x, ∃ v : Block, Answers (.permIp x) s (.word .ok v) ∧ ∀ s', Answers (.permFp v) s' (.word .ok x)) ∧
  (∀ s x, ∃ v : Block, Answers (.permFp x) s (.word .ok v) ∧ ∀ s', Answers (.permIp v) s' (.word .ok x)) ∧
  (∀ s, Answers (.permFp 0) s (.word .ok 0) ∧
    Answers (.permFp (BitVec.allOnes 64)) s (.word .ok (BitVec.allOnes 64)) ∧
    Answers (.permFp 0x8000000000000000) s (.word .ok 0x0000000000000040) ∧
    Answers (.permFp 0x0000000000000001) s (.word .ok 0x0200000000000000) ∧
    Answers (.permFp 0x0A4CD99543423234) s (.word .ok 0x85E813540F0AB405))

/-- R92: encoding with `a[63:32]` ignored, zero-extended result, corner cases, worked example. -/
def Obligations.PermECommand : Prop :=
  (formatOf 0x12 = .word ∧ ∀ a b d, decode ⟨0x12, a, b, d⟩ = .ok (.permE (BitVec.ofNat 32 a.toNat))) ∧
  (∀ s x, ∃ v : Block, Answers (.permE x) s (.word .ok v) ∧
    (∀ j < 48, v.getLsbD (47 - j) = x.getMsbD (ROM.E.entries.getD j 0 - 1)) ∧ v.toNat < 2 ^ 48) ∧
  (∀ s, Answers (.permE 0) s (.word .ok 0) ∧
    Answers (.permE 0xFFFFFFFF) s (.word .ok 0xFFFFFFFFFFFF) ∧
    Answers (.permE 0x80000000) s (.word .ok 0x400000000001) ∧
    Answers (.permE 0x00000001) s (.word .ok 0x800000000002) ∧
    Answers (.permE 0xF0AAF0AA) s (.word .ok 0x7A15557A1555))

/-- R93: encoding with `a[63:32]` ignored, zero-extended result, corner cases, worked example. -/
def Obligations.PermPCommand : Prop :=
  (formatOf 0x13 = .word ∧ ∀ a b d, decode ⟨0x13, a, b, d⟩ = .ok (.permP (BitVec.ofNat 32 a.toNat))) ∧
  (∀ s x, ∃ v : Block, Answers (.permP x) s (.word .ok v) ∧
    (∀ j < 32, v.getLsbD (31 - j) = x.getMsbD (ROM.P.entries.getD j 0 - 1)) ∧ v.toNat < 2 ^ 32) ∧
  (∀ s, Answers (.permP 0) s (.word .ok 0) ∧
    Answers (.permP 0xFFFFFFFF) s (.word .ok 0xFFFFFFFF) ∧
    Answers (.permP 0x80000000) s (.word .ok 0x00800000) ∧
    Answers (.permP 0x00000001) s (.word .ok 0x00000800) ∧
    Answers (.permP 0x5C82B597) s (.word .ok 0x234AA9BB))

/-- R94: encoding, zero-extended result, corner cases (the parity positions do not matter), worked example. -/
def Obligations.PermPc1Command : Prop :=
  (formatOf 0x14 = .word ∧ ∀ a b d, decode ⟨0x14, a, b, d⟩ = .ok (.permPc1 a)) ∧
  (∀ s x, ∃ v : Block, Answers (.permPc1 x) s (.word .ok v) ∧
    (∀ j < 56, v.getLsbD (55 - j) = x.getMsbD (ROM.PC1.entries.getD j 0 - 1)) ∧ v.toNat < 2 ^ 56) ∧
  (∀ x y : Block, (∀ j < 64, j % 8 ≠ 7 → x.getMsbD j = y.getMsbD j) →
    ∃ v : Block, ∀ s, Answers (.permPc1 x) s (.word .ok v) ∧ Answers (.permPc1 y) s (.word .ok v)) ∧
  (∀ s, Answers (.permPc1 0x0101010101010101) s (.word .ok 0) ∧
    Answers (.permPc1 0xFEFEFEFEFEFEFEFE) s (.word .ok 0xFFFFFFFFFFFFFF) ∧
    Answers (.permPc1 0x0000000000000001) s (.word .ok 0) ∧
    Answers (.permPc1 0x8000000000000000) s (.word .ok 0x01000000000000) ∧
    Answers (.permPc1 0x133457799BBCDFF1) s (.word .ok 0xF0CCAAF556678F))

/-- R95: encoding with `a[63:56]` ignored, zero-extended result, corner cases (the unread positions), worked example. -/
def Obligations.PermPc2Command : Prop :=
  (formatOf 0x15 = .word ∧ ∀ a b d, decode ⟨0x15, a, b, d⟩ = .ok (.permPc2 (BitVec.ofNat 56 a.toNat))) ∧
  (∀ s x, ∃ v : Block, Answers (.permPc2 x) s (.word .ok v) ∧
    (∀ j < 48, v.getLsbD (47 - j) = x.getMsbD (ROM.PC2.entries.getD j 0 - 1)) ∧ v.toNat < 2 ^ 48) ∧
  (∀ x y : KeyPair, (∀ p < 57, p ∉ [0, 9, 18, 22, 25, 35, 38, 43, 54] → x.getMsbD (p - 1) = y.getMsbD (p - 1)) →
    ∃ v : Block, ∀ s, Answers (.permPc2 x) s (.word .ok v) ∧ Answers (.permPc2 y) s (.word .ok v)) ∧
  (∀ s, Answers (.permPc2 0) s (.word .ok 0) ∧
    Answers (.permPc2 (BitVec.allOnes 56)) s (.word .ok 0xFFFFFFFFFFFF) ∧
    Answers (.permPc2 0x80000000000000) s (.word .ok 0x080000000000) ∧
    Answers (.permPc2 0x00000000000001) s (.word .ok 0x000000000100) ∧
    Answers (.permPc2 0xE19955FAACCF1E) s (.word .ok 0x1B02EFFC7072))

/-! ## The key schedule -/

/-- R100: the shift of every round, their sum, the cumulative rotations. -/
def Obligations.ShiftSchedule : Prop :=
  (∀ n < 17, n ≠ 0 → shift n = if n ∈ [1, 2, 9, 16] then 1 else 2) ∧
  ((List.range 16).map fun n => ((List.range (n + 1)).map fun k => shift (k + 1)).sum) =
    [1, 2, 4, 6, 8, 10, 12, 14] ++ [15, 17, 19, 21, 23, 25, 27, 28]

/-- R101: the formula over natural numbers, the bit rule, rotation by two as rotation by one twice, the examples. -/
def Obligations.RotationOfKeyHalves : Prop :=
  (∀ (v : KeyHalf) (s : Nat), s = 1 ∨ s = 2 →
    (rotl28 v s).toNat = v.toNat <<< s % 2 ^ 28 + v.toNat >>> (28 - s)) ∧
  (∀ (v : KeyHalf), ∀ i < 28, (rotl28 v 1).getLsbD i = v.getLsbD ((i + 27) % 28)) ∧
  (∀ v : KeyHalf, rotl28 v 2 = rotl28 (rotl28 v 1) 1) ∧
  rotl28 0x8000001 1 = 0x0000003 ∧ rotl28 0x8000001 2 = 0x0000006 ∧ rotl28 0xC000000 2 = 0x0000003 ∧
  rotl28 0xFFFFFFF 2 = 0xFFFFFFF ∧ rotl28 0 1 = 0 ∧ rotl28 0 2 = 0

/-- R103: there are halves `C_0 .. C_16`, `D_0 .. D_16` that start as PC-1 of the key (R102), rotate round by round, and give
each subkey through PC-2; index `n` holds the subkey of round `n + 1`. -/
def Obligations.KeyScheduleRecurrence : Prop :=
  ∀ key : Block, ∃ C D : Nat → KeyHalf,
    (∀ j < 28, (C 0).getMsbD j = key.getMsbD (ROM.PC1.entries.getD j 0 - 1)) ∧
    (∀ j < 28, (D 0).getMsbD j = key.getMsbD (ROM.PC1.entries.getD (28 + j) 0 - 1)) ∧
    ∀ (n : Nat) (h : n < 16),
      C (n + 1) = rotl28 (C n) (shift (n + 1)) ∧ D (n + 1) = rotl28 (D n) (shift (n + 1)) ∧
      ∀ j < 48, (generateSubkeys key)[n].getMsbD j =
        (C (n + 1) ++ D (n + 1)).getMsbD (ROM.PC2.entries.getD j 0 - 1)

/-- R105, (a) to (f). -/
def Obligations.KeyScheduleProperties : Prop :=
  (∀ s key, Loads (.keygen key) s (generateSubkeys key) (.word .ok 0)) ∧
  (∀ (key : Block) (n : Nat) (h : n < 16), (generateSubkeys key)[n].toNat ≤ 2 ^ 48 - 1) ∧
  (∀ k k' : Block, (∀ j < 64, j % 8 ≠ 7 → k.getMsbD j = k'.getMsbD j) → generateSubkeys k = generateSubkeys k') ∧
  (∀ key, keyHalves key 16 = keyHalves key 0) ∧
  (∀ key, ((keyHalves key 0).1 = 0 ∨ (keyHalves key 0).1 = BitVec.allOnes 28) →
    ((keyHalves key 0).2 = 0 ∨ (keyHalves key 0).2 = BitVec.allOnes 28) →
    (∀ (m n : Nat) (hm : m < 16) (hn : n < 16), (generateSubkeys key)[m] = (generateSubkeys key)[n]) ∧
    ∀ x, processBlock x (generateSubkeys key) true = processBlock x (generateSubkeys key) false) ∧
  (generateSubkeys 0x0000000000000000 = Vector.replicate 16 0 ∧
    generateSubkeys 0x0101010101010101 = Vector.replicate 16 0 ∧
    generateSubkeys 0xFFFFFFFFFFFFFFFF = Vector.replicate 16 0xFFFFFFFFFFFF ∧
    generateSubkeys 0xFEFEFEFEFEFEFEFE = Vector.replicate 16 0xFFFFFFFFFFFF) ∧
  (∀ c c' d : KeyHalf, (permute ROM.PC2 (c ++ d)).extractLsb' 0 24 = (permute ROM.PC2 (c' ++ d)).extractLsb' 0 24) ∧
  (∀ c d d' : KeyHalf, (permute ROM.PC2 (c ++ d)).extractLsb' 24 24 = (permute ROM.PC2 (c ++ d')).extractLsb' 24 24)

/-- R104: encoding, the whole key load in every state, the worked example. -/
def Obligations.KeygenCommand : Prop :=
  (formatOf 0x01 = .word ∧ ∀ a b d, decode ⟨0x01, a, b, d⟩ = .ok (.keygen a)) ∧
  (∀ s key, Loads (.keygen key) s (generateSubkeys key) (.word .ok 0)) ∧
  (∀ s key, s.subkeys = some (generateSubkeys key) → Answers (.keygen key) s (.word .ok 0)) ∧
  (generateSubkeys 0x133457799BBCDFF1)[0] = 0x1B02EFFC7072 ∧ (generateSubkeys 0x133457799BBCDFF1)[15] = 0xCB3D8B0E17F5

/-- R106: encoding, the length check, the key load of the big-endian word, the worked example. -/
def Obligations.NewCommand : Prop :=
  (formatOf 0x24 = .buffer ∧ ∀ a b d, decode ⟨0x24, a, b, d⟩ = .ok (.new d)) ∧
  (∀ s (d : List Byte), d.length ≠ 8 → Answers (.new d) s (.buffer .keyLengthError [])) ∧
  (∀ s (d : List Byte), d.length = 8 → ∃ key : Block,
    key.toNat = (d.getD 0 0).toNat * 2 ^ 56 + (d.getD 1 0).toNat * 2 ^ 48 + (d.getD 2 0).toNat * 2 ^ 40 + (d.getD 3 0).toNat * 2 ^ 32 +
      (d.getD 4 0).toNat * 2 ^ 24 + (d.getD 5 0).toNat * 2 ^ 16 + (d.getD 6 0).toNat * 2 ^ 8 + (d.getD 7 0).toNat ∧
    Loads (.new d) s (generateSubkeys key) (.buffer .ok []) ∧
    Loads (.keygen key) s (generateSubkeys key) (.word .ok 0)) ∧
  (∀ s, Loads (.new [0x13, 0x34, 0x57, 0x79, 0x9B, 0xBC, 0xDF, 0xF1]) s (generateSubkeys 0x133457799BBCDFF1)
      (.buffer .ok []) ∧
    Answers (.new [0x13, 0x34, 0x57]) s (.buffer .keyLengthError []))

/-- R107: encoding with `a[63:4]` ignored, the register read, the error, the worked example. -/
def Obligations.RdskCommand : Prop :=
  (formatOf 0x06 = .word ∧ ∀ a b d, decode ⟨0x06, a, b, d⟩ = .ok (.rdsk (Fin.ofNat 16 a.toNat))) ∧
  (∀ s i, s.subkeys = none → Answers (.rdsk i) s (.word .noKeyError 0)) ∧
  (∀ s ks (i : Fin 16), s.subkeys = some ks →
    ∃ v : Block, v.toNat = ks[i].toNat ∧ Answers (.rdsk i) s (.word .ok v)) ∧
  AnswersWord (.rdsk 0) (generateSubkeys 0x133457799BBCDFF1) 0x1B02EFFC7072 ∧
  Answers (.rdsk 0) State.reset (.word .noKeyError 0)

/-! ## The round function -/

/-- R129, R130: row and column of a group, the eight groups, the examples. -/
def Obligations.SboxAddressing : Prop :=
  (∀ g : Group, (sboxRow g).toNat = 2 * (g.toNat / 32 % 2) + g.toNat % 2 ∧ (sboxCol g).toNat = g.toNat / 2 % 16) ∧
  (∀ (x : Subkey) (i : Fin 8), (sboxGroup x i).toNat = x.toNat / 2 ^ (42 - 6 * i.val) % 64) ∧
  (([0b000000, 0b000001, 0b100000, 0b100001, 0b011110, 0b111111, 0b011011] : List Group).map
      fun g => ((sboxRow g).toNat, (sboxCol g).toNat)) =
    [(0, 0), (1, 0), (2, 0), (3, 0), (0, 15), (3, 15), (1, 13)]

/-- R131: output nibble `b` is box `b` at the row and column of group `b`, and depends on no other group. -/
def Obligations.SubstituteByGroups : Prop :=
  (∀ (x : Subkey) (i : Fin 8), (substitute x).extractLsb' (28 - 4 * i.val) 4 =
    (ROM.S[i][(sboxRow (sboxGroup x i)).toNat]'(sboxRow (sboxGroup x i)).isLt)[(sboxCol (sboxGroup x i)).toNat]'
      (sboxCol (sboxGroup x i)).isLt) ∧
  (∀ (x y : Subkey) (b : Fin 8), (∀ c, c ≠ b → sboxGroup x c = sboxGroup y c) →
    ∀ c : Fin 8, c ≠ b → (substitute x).extractLsb' (28 - 4 * c.val) 4 = (substitute y).extractLsb' (28 - 4 * c.val) 4)

/-- R132: encoding with `a` ignored, result in every state, corner cases, worked example. -/
def Obligations.SubstCommand : Prop :=
  (formatOf 0x05 = .word ∧ ∀ a b d, decode ⟨0x05, a, b, d⟩ = .ok (.subst b)) ∧
  (∀ s x, ∃ v : Block, v.toNat = (substitute x).toNat ∧ Answers (.subst x) s (.word .ok v)) ∧
  (∀ s, Answers (.subst 0) s (.word .ok 0xEFA72C4D) ∧
    Answers (.subst 0xFFFFFFFFFFFF) s (.word .ok 0xD9CE3DCB) ∧
    Answers (.subst 0x041041041041) s (.word .ok 0x03DDEAD1) ∧
    Answers (.subst 0x820820820820) s (.word .ok 0x40DA4917) ∧
    Answers (.subst 0x861861861861) s (.word .ok 0xFD13B462) ∧
    Answers (.subst 0x79E79E79E79E) s (.word .ok 0x7A8F9B17) ∧
    Answers (.subst 0x6117BA866527) s (.word .ok 0x5C82B597))

/-- R133 and the steps (a) to (f) of R134: `e`, `x`, `s` and the P table, in every state; corner cases, worked example. -/
def Obligations.FCommand : Prop :=
  (formatOf 0x04 = .word ∧ ∀ a b d, decode ⟨0x04, a, b, d⟩ = .ok (.f (BitVec.ofNat 32 a.toNat) b)) ∧
  (∀ s right subkey, ∃ (e : Subkey) (v : Block), Answers (.f right subkey) s (.word .ok v) ∧
    (∀ j < 48, e.getMsbD j = right.getMsbD (ROM.E.entries.getD j 0 - 1)) ∧
    (∀ j < 32, v.getLsbD (31 - j) = (substitute (e ^^^ subkey)).getMsbD (ROM.P.entries.getD j 0 - 1)) ∧
    v.toNat < 2 ^ 32) ∧
  (∀ s, Answers (.f 0x00000000 0x000000000000) s (.word .ok 0xD8D8DBBC) ∧
    Answers (.f 0xFFFFFFFF 0x000000000000) s (.word .ok 0x38DBF9CB) ∧
    Answers (.f 0x00000000 0xFFFFFFFFFFFF) s (.word .ok 0x38DBF9CB) ∧
    Answers (.f 0xFFFFFFFF 0xFFFFFFFFFFFF) s (.word .ok 0xD8D8DBBC) ∧
    Answers (.f 0x00000001 0x000000000000) s (.word .ok 0xD05AD19C) ∧
    Answers (.f 0xF0AAF0AA 0x1B02EFFC7072) s (.word .ok 0x234AA9BB)) ∧
  permute ROM.E 0xF0AAF0AA = 0x7A15557A1555 ∧ (0x7A15557A1555 ^^^ 0x1B02EFFC7072 : Subkey) = 0x6117BA866527 ∧
  substitute 0x6117BA866527 = 0x5C82B597

/-- R135, (b) to (e); (a) is that both are Lean functions of their operands alone. -/
def Obligations.RoundFunctionProperties : Prop :=
  (∀ (r r' : Half) (k k' : Subkey), permute ROM.E r ^^^ k = permute ROM.E r' ^^^ k' → roundF r k = roundF r' k') ∧
  (∀ (r : Half) (k : Subkey), roundF (~~~r) (~~~k) = roundF r k) ∧
  substitute 0 = 0xEFA72C4D ∧ substitute 0xFFFFFFFFFFFF = 0xD9CE3DCB ∧
  (∀ (b : Fin 8) (row : Fin 4), (ROM.S[b][row].toList.map BitVec.toNat).Perm (List.range 16)) ∧
  roundF 0 0 = 0xD8D8DBBC ∧ roundF 0 0 ≠ 0

/-! ## The block operation -/

/-- R140 to R144: entry, sixteen rounds with the subkey of each, the final swap, exit. -/
def Obligations.BlockOperationRounds : Prop :=
  ∀ (block : Block) (ks : SubkeySet) (decrypt : Bool), ∃ L R : Nat → Half,
    (∀ j < 32, (L 0).getMsbD j = block.getMsbD (ROM.IP.entries.getD j 0 - 1)) ∧
    (∀ j < 32, (R 0).getMsbD j = block.getMsbD (ROM.IP.entries.getD (32 + j) 0 - 1)) ∧
    (∀ (r : Nat) (h : r < 16), L (r + 1) = R r ∧
      R (r + 1) = L r ^^^ roundF (R r) (if decrypt then ks[15 - r] else ks[r])) ∧
    ∀ j < 64, (processBlock block ks decrypt).getMsbD j = (R 16 ++ L 16).getMsbD (ROM.FP.entries.getD j 0 - 1)

/-- R148 (a), (b) at the command port, for every SubkeySet: DEC undoes ENC, ENC undoes DEC, and each is a bijection. -/
def Obligations.EncAndDecUndoEachOther : Prop :=
  ∀ ks : SubkeySet,
    (∀ b, ∃ c, AnswersWord (.enc b) ks c ∧ AnswersWord (.dec c) ks b) ∧
    (∀ b, ∃ c, AnswersWord (.dec b) ks c ∧ AnswersWord (.enc c) ks b) ∧
    ∀ decrypt, Function.Bijective fun b => processBlock b ks decrypt

/-- R148 (d): with sixteen equal subkeys ENC and DEC are one function, and it is its own inverse. -/
def Obligations.EqualSubkeysMakeEncSelfInverse : Prop :=
  ∀ (k : Subkey) (b : Block),
    processBlock b (Vector.replicate 16 k) true = processBlock b (Vector.replicate 16 k) false ∧
    processBlock (processBlock b (Vector.replicate 16 k) false) (Vector.replicate 16 k) false = b

/-- R148 (e): complementing key and block complements the result. -/
def Obligations.ComplementProperty : Prop :=
  ∀ (key b : Block) (decrypt : Bool),
    processBlock (~~~b) (generateSubkeys (~~~key)) decrypt = ~~~(processBlock b (generateSubkeys key) decrypt)

/-- R145: encoding with direction bit 0, the error, the result, the corner case of equal subkeys, the worked example. -/
def Obligations.EncCommand : Prop :=
  (formatOf 0x02 = .word ∧ (0x02 : Byte).getLsbD 0 = false ∧ ∀ a b d, decode ⟨0x02, a, b, d⟩ = .ok (.enc a)) ∧
  (∀ s x, s.subkeys = none → Answers (.enc x) s (.word .noKeyError 0)) ∧
  (∀ ks x, AnswersWord (.enc x) ks (processBlock x ks false)) ∧
  (∀ k x, AnswersWord (.enc (processBlock x (Vector.replicate 16 k) false)) (Vector.replicate 16 k) x) ∧
  AnswersWord (.enc 0x0123456789ABCDEF) (generateSubkeys 0x133457799BBCDFF1) 0x85E813540F0AB405 ∧
  permute ROM.IP 0x0123456789ABCDEF = (0xCC00CCFF#32 ++ 0xF0AAF0AA#32) ∧
  rounds.foldl (feistelRound (generateSubkeys 0x133457799BBCDFF1) false) (0xCC00CCFF, 0xF0AAF0AA) =
    (0x43423234, 0x0A4CD995) ∧
  permute ROM.FP 0x0A4CD99543423234 = 0x85E813540F0AB405

/-- R146: encoding with direction bit 1, the error, the result, that ENC undoes it, the worked examples. -/
def Obligations.DecCommand : Prop :=
  (formatOf 0x03 = .word ∧ (0x03 : Byte).getLsbD 0 = true ∧ ∀ a b d, decode ⟨0x03, a, b, d⟩ = .ok (.dec a)) ∧
  (∀ s x, s.subkeys = none → Answers (.dec x) s (.word .noKeyError 0)) ∧
  (∀ ks x, AnswersWord (.dec x) ks (processBlock x ks true)) ∧
  (∀ ks x, AnswersWord (.enc (processBlock x ks true)) ks x) ∧
  AnswersWord (.dec 0x0123456789ABCDEF) (generateSubkeys 0x133457799BBCDFF1) 0xEE0F7C12E0B09338 ∧
  AnswersWord (.enc 0xEE0F7C12E0B09338) (generateSubkeys 0x133457799BBCDFF1) 0x0123456789ABCDEF ∧
  AnswersWord (.dec 0x85E813540F0AB405) (generateSubkeys 0x133457799BBCDFF1) 0x0123456789ABCDEF ∧
  permute ROM.IP 0x85E813540F0AB405 = (0x0A4CD995#32 ++ 0x43423234#32) ∧
  rounds.foldl (feistelRound (generateSubkeys 0x133457799BBCDFF1) true) (0x0A4CD995, 0x43423234) =
    (0xF0AAF0AA, 0xCC00CCFF)

/-! ## Padding and the block driver -/

/-- R160, R161, R162: the pad length, the padded buffer, in every state; corner cases, worked example. -/
def Obligations.PadCommand : Prop :=
  (formatOf 0x20 = .buffer ∧ ∀ a b d, decode ⟨0x20, a, b, d⟩ = .ok (.pad d)) ∧
  (∀ s (x : List Byte), ∃ n : Nat, n = 8 - x.length % 8 ∧ 1 ≤ n ∧ n ≤ 8 ∧ (x.length + n) % 8 = 0 ∧
    Answers (.pad x) s (.buffer .ok (x ++ List.replicate n (BitVec.ofNat 8 n)))) ∧
  (∀ s, Answers (.pad []) s (.buffer .ok [8, 8, 8, 8, 8, 8, 8, 8]) ∧
    Answers (.pad [1, 2, 3, 4, 5, 6, 7, 8]) s (.buffer .ok [1, 2, 3, 4, 5, 6, 7, 8, 8, 8, 8, 8, 8, 8, 8, 8]) ∧
    Answers (.pad [1, 2, 3, 4, 5, 6, 7]) s (.buffer .ok [1, 2, 3, 4, 5, 6, 7, 1]) ∧
    Answers (.pad [1, 2, 3]) s (.buffer .ok [1, 2, 3, 5, 5, 5, 5, 5]))

/-- R164: UNPAD answers `y` exactly when the data are `y` and a valid pad, else `PaddingError`; corner cases, worked
example. -/
def Obligations.UnpadCommand : Prop :=
  (formatOf 0x21 = .buffer ∧ ∀ a b d, decode ⟨0x21, a, b, d⟩ = .ok (.unpad d)) ∧
  (∀ s x y, EndsInPad x y → Answers (.unpad x) s (.buffer .ok y)) ∧
  (∀ s x, (¬∃ y, EndsInPad x y) → Answers (.unpad x) s (.buffer .paddingError [])) ∧
  (∀ s, Answers (.unpad [8, 8, 8, 8, 8, 8, 8, 8]) s (.buffer .ok []) ∧ Answers (.unpad [2, 2]) s (.buffer .ok []) ∧
    Answers (.unpad [1, 1]) s (.buffer .ok [1]) ∧
    Answers (.unpad [0x68, 0x65, 0x6C, 0x6C, 0x6F, 3, 3, 3]) s (.buffer .ok [0x68, 0x65, 0x6C, 0x6C, 0x6F])) ∧
  (∀ s, ∀ x ∈ ([[0], [9], [], [2], [1, 2], [1, 2, 3, 4, 5, 6, 7, 3]] : List (List Byte)),
    Answers (.unpad x) s (.buffer .paddingError []))

/-- R165, (a) to (c). -/
def Obligations.PaddingLaws : Prop :=
  (∀ x, unpadBytes (padBytes x) = some x) ∧
  (∀ x, ∃ p, ∀ s, Answers (.pad x) s (.buffer .ok p) ∧ Answers (.unpad p) s (.buffer .ok x)) ∧
  Function.Injective padBytes ∧
  (∀ x y, unpadBytes y = some x → y.length % 8 = 0 → padBytes x = y)

/-- R40 both ways, and the bit order of R42. -/
def Obligations.BytesAndWordsAgree : Prop :=
  (∀ w, be64 (bytes64 w) = w) ∧
  (∀ b : List Byte, b.length = 8 → bytes64 (be64 b) = b ∧
    (be64 b).toNat = (b.getD 0 0).toNat * 2 ^ 56 + (b.getD 1 0).toNat * 2 ^ 48 + (b.getD 2 0).toNat * 2 ^ 40 + (b.getD 3 0).toNat * 2 ^ 32 +
      (b.getD 4 0).toNat * 2 ^ 24 + (b.getD 5 0).toNat * 2 ^ 16 + (b.getD 6 0).toNat * 2 ^ 8 + (b.getD 7 0).toNat) ∧
  (∀ w : Block, (bytes64 w).length = 8 ∧
    ∀ p < 64, w.getMsbD p = ((bytes64 w).getD (p / 8) 0).getLsbD (7 - p % 8))

/-- R166, R167, R168: the length of the output, and each 8-byte piece of it from the chunk at the same place, zero-filled
behind, in both directions (R169). -/
def Obligations.TransformChunkByChunk : Prop :=
  ∀ (buf : List Byte) (ks : SubkeySet) (decrypt : Bool),
    (transform buf ks decrypt).length = 8 * ((buf.length + 7) / 8) ∧
    ∀ j < (buf.length + 7) / 8, ∀ c, c = (buf.drop (8 * j)).take 8 →
      ((transform buf ks decrypt).drop (8 * j)).take 8 =
        bytes64 (processBlock (be64 (c ++ List.replicate (8 - c.length) 0)) ks decrypt)

/-- R170: encoding with direction bit 0, the error, the result for every length, the corner cases, the worked examples. -/
def Obligations.EncryptCommand : Prop :=
  (formatOf 0x22 = .buffer ∧ (0x22 : Byte).getLsbD 0 = false ∧ ∀ a b d, decode ⟨0x22, a, b, d⟩ = .ok (.encrypt d)) ∧
  (∀ s x, s.subkeys = none → Answers (.encrypt x) s (.buffer .noKeyError [])) ∧
  (∀ ks x, AnswersBuffer (.encrypt x) ks (transform x ks false)) ∧
  (∀ ks, AnswersBuffer (.encrypt []) ks []) ∧
  (∀ ks x, AnswersBuffer (.decrypt (transform x ks false)) ks (x ++ List.replicate ((8 - x.length % 8) % 8) 0)) ∧
  (∀ ks (x y : List Byte), x.length = 8 → y.length = 8 → ∃ c d, c.length = 8 ∧ d.length = 8 ∧
    AnswersBuffer (.encrypt (x ++ y ++ x)) ks (c ++ d ++ c)) ∧
  AnswersBuffer (.encrypt [0x68, 0x65, 0x6C, 0x6C, 0x6F, 0x03, 0x03, 0x03]) (generateSubkeys 0x133457799BBCDFF1)
    [0x18, 0x0F, 0x8B, 0x04, 0x4A, 0x21, 0x1D, 0x47] ∧
  AnswersBuffer (.encrypt [0x68, 0x65, 0x6C, 0x6C, 0x6F]) (generateSubkeys 0x133457799BBCDFF1)
    [0x5C, 0xE0, 0x29, 0x31, 0x52, 0x02, 0x97, 0xD9] ∧
  AnswersBuffer (.encrypt [0x68, 0x65, 0x6C, 0x6C, 0x6F, 0x00, 0x00, 0x00]) (generateSubkeys 0x133457799BBCDFF1)
    [0x5C, 0xE0, 0x29, 0x31, 0x52, 0x02, 0x97, 0xD9]

/-- R171: encoding with direction bit 1, the two errors in their order, the result, the corner cases, the worked examples. -/
def Obligations.DecryptCommand : Prop :=
  (formatOf 0x23 = .buffer ∧ (0x23 : Byte).getLsbD 0 = true ∧ ∀ a b d, decode ⟨0x23, a, b, d⟩ = .ok (.decrypt d)) ∧
  (∀ s x, s.subkeys = none → Answers (.decrypt x) s (.buffer .noKeyError [])) ∧
  (∀ s ks (x : List Byte), s.subkeys = some ks → x.length % 8 ≠ 0 →
    Answers (.decrypt x) s (.buffer .blockLengthError [])) ∧
  (∀ ks (x : List Byte), x.length % 8 = 0 → AnswersBuffer (.decrypt x) ks (transform x ks true)) ∧
  (∀ ks, AnswersBuffer (.decrypt []) ks []) ∧
  AnswersBuffer (.decrypt [0x18, 0x0F, 0x8B, 0x04, 0x4A, 0x21, 0x1D, 0x47]) (generateSubkeys 0x133457799BBCDFF1)
    [0x68, 0x65, 0x6C, 0x6C, 0x6F, 0x03, 0x03, 0x03] ∧
  (∀ s, s.subkeys = some (generateSubkeys 0x133457799BBCDFF1) →
    Answers (.decrypt [0x18, 0x0F, 0x8B]) s (.buffer .blockLengthError []))

/-- R172, (a) to (f), at the command port, for every loaded SubkeySet. -/
def Obligations.BufferLaws : Prop :=
  ∀ (ks : SubkeySet) (x y : List Byte),
    (∃ c, AnswersBuffer (.encrypt x) ks c ∧ c.length = 8 * ((x.length + 7) / 8)) ∧
    (x.length % 8 = 0 → ∃ c, AnswersBuffer (.decrypt x) ks c ∧ c.length = x.length) ∧
    (x.length % 8 = 0 → ∃ c, AnswersBuffer (.encrypt x) ks c ∧ AnswersBuffer (.decrypt c) ks x) ∧
    (x.length % 8 = 0 → ∃ c, AnswersBuffer (.decrypt x) ks c ∧ AnswersBuffer (.encrypt c) ks x) ∧
    (∃ c, AnswersBuffer (.encrypt x) ks c ∧
      AnswersBuffer (.decrypt c) ks (x ++ List.replicate ((8 - x.length % 8) % 8) 0)) ∧
    (∃ p c, AnswersBuffer (.pad x) ks p ∧ AnswersBuffer (.encrypt p) ks c ∧ AnswersBuffer (.decrypt c) ks p ∧
      AnswersBuffer (.unpad p) ks x) ∧
    (x.length % 8 = 0 → ∃ c d, AnswersBuffer (.encrypt x) ks c ∧ AnswersBuffer (.encrypt y) ks d ∧
      AnswersBuffer (.encrypt (x ++ y)) ks (c ++ d)) ∧
    (x.length % 8 = 0 → y.length % 8 = 0 → ∃ c d, AnswersBuffer (.decrypt x) ks c ∧ AnswersBuffer (.decrypt y) ks d ∧
      AnswersBuffer (.decrypt (x ++ y)) ks (c ++ d)) ∧
    (x.length = 8 → ∃ v w, AnswersWord (.enc (be64 x)) ks v ∧ AnswersBuffer (.encrypt x) ks (bytes64 v) ∧
      AnswersWord (.dec (be64 x)) ks w ∧ AnswersBuffer (.decrypt x) ks (bytes64 w))

/-- R213, as a run of five steps from any state: NEW, PAD, ENCRYPT, DECRYPT, UNPAD give the message back. That the five
commands wait in a queue at the port, one taken a step, is the model's choice (log 1). -/
def Obligations.NormalUseReturnsTheMessage : Prop :=
  ∀ (s : State) (kb m : List Byte), kb.length = 8 → ∃ p c t,
    RunsTo 5 { s with pending := [.command (encode (.new kb)), .command (encode (.pad m)), .command (encode (.encrypt p)),
      .command (encode (.decrypt c)), .command (encode (.unpad p))] } t ∧
    t.responses = s.responses ++
      [.buffer .ok [], .buffer .ok p, .buffer .ok c, .buffer .ok p, .buffer .ok m] ∧
    t.subkeys = some (generateSubkeys (be64 kb)) ∧ t.pending = []

/-! ## Errors, steps and runs -/

/-- R196, for every command record, legal or not: an error leaves everything but the port as it was and carries no data. -/
def Obligations.ErrorsChangeNothing : Prop :=
  ∀ (s t : State) (c : Command) (rest : List PortEvent) (r : Response),
    s.pending = .command c :: rest → step s = .next t → t.responses = s.responses ++ [r] → r.status ≠ .ok →
    t = { s with pending := rest, responses := s.responses ++ [r] } ∧
    (r = .word r.status 0 ∨ r = .buffer r.status [])

/-- R191, R192: the codes, and which status a command gets, for every command record in every state; each line is one cause,
and their order is the order of the checks. -/
def Obligations.StatusOfEveryCommand : Prop :=
  ([Status.ok, .keyLengthError, .blockLengthError, .paddingError, .noKeyError, .illegalCommand].map Status.code =
    [0x00, 0x01, 0x02, 0x03, 0x04, 0x05]) ∧ (∀ st : Status, st.code.toNat < 6) ∧
  ∀ (s : State) (c : Command) (rest : List PortEvent), s.pending = .command c :: rest →
    ∃ t r, step s = .next t ∧ t.responses = s.responses ++ [r] ∧
      (c.op ∉ commandCodes → r.status = .illegalCommand) ∧
      (c.op ∈ keyedCodes → s.keyValid = false → r.status = .noKeyError) ∧
      (c.op = 0x24 → c.data.length ≠ 8 → r.status = .keyLengthError) ∧
      (c.op = 0x23 → s.keyValid = true → c.data.length % 8 ≠ 0 → r.status = .blockLengthError) ∧
      (c.op = 0x21 → (¬∃ y, EndsInPad c.data y) → r.status = .paddingError) ∧
      (c.op ∈ commandCodes → (c.op ∈ keyedCodes → s.keyValid = true) → (c.op = 0x24 → c.data.length = 8) →
        (c.op = 0x23 → c.data.length % 8 = 0) → (c.op = 0x21 → ∃ y, EndsInPad c.data y) → r.status = .ok)

/-- A command gives exactly one response, in its own format, and one next state (R11), and takes exactly itself from the
port. That every state has a next state goes further than R11, which speaks of commands: with nothing pending it is the
model's idle step (log 3). The queue and the list of responses are the model's too (log 1, log 2). -/
def Obligations.EveryCommandIsTotal : Prop :=
  (∀ s, ∃ t, step s = .next t) ∧
  ∀ (s : State) (c : Command) (rest : List PortEvent), s.pending = .command c :: rest →
    ∃ t r, step s = .next t ∧ t.pending = rest ∧ t.responses = s.responses ++ [r] ∧ r.format = formatOf c.op

/-- R217: a run of n commands, from any state, ends with exactly n more responses, each in the format of its command, and
nothing left at the port. That the port is a queue and the responses a list is the model's choice (log 1, log 2). -/
def Obligations.RunOfCommandsAnswersEach : Prop :=
  ∀ (s : State) (cs : List Command), s.pending = cs.map .command →
    ∃ t rs, RunsTo cs.length s t ∧ t.pending = [] ∧ t.responses = s.responses ++ rs ∧
      rs.map Response.format = cs.map fun c => formatOf c.op

/-- R73: a step takes the command at the head of the port and is `exec` of what it decodes to. -/
def Obligations.StepRunsTheDecodedCommand : Prop :=
  ∀ (s : State) (c : Command) (rest : List PortEvent) (i : Instr), s.pending = .command c :: rest → decode c = .ok i →
    step s = exec i { s with pending := rest }

/-- R68, R195: the illegal codes are those outside the seventeen, 239 of them; each is answered `IllegalCommand` in the format
of its class, whatever its operands and whatever the state, and changes nothing else. -/
def Obligations.IllegalCommandsAreRefused : Prop :=
  (∀ op a b d, op ∉ commandCodes → decode ⟨op, a, b, d⟩ = .error (.illegalCommand op)) ∧
  (∀ op a b d, op ∈ commandCodes → ∃ i, decode ⟨op, a, b, d⟩ = .ok i) ∧
  ((List.range 256).countP fun n => BitVec.ofNat 8 n ∉ commandCodes) = 239 ∧
  ∀ (s : State) (c : Command) (rest : List PortEvent), s.pending = .command c :: rest → c.op ∉ commandCodes →
    step s = .next { s with
      pending := rest
      responses := s.responses ++
        [if c.op.toNat / 16 = 2 then .buffer .illegalCommand [] else .word .illegalCommand 0] }

/-- R21: only KEYGEN and a NEW of 8 bytes write `SUBKEY`, all sixteen registers at once; F, SUBST, PERM.*, PAD and UNPAD
neither read nor write it. -/
def Obligations.OnlyKeyLoadsWriteSubkeys : Prop :=
  (∀ (i : Instr) (s t : State), exec i s = .next t → t.subkeys = s.subkeys ∨
    ∃ key, t.subkeys = some (generateSubkeys key) ∧
      (i = .keygen key ∨ ∃ d, i = .new d ∧ d.length = 8 ∧ key = be64 d)) ∧
  (∀ i, isStateless i = true → ∃ r, ∀ s, Answers i s r)

/-- R22: `KEY_VALID` is 1 exactly when a SubkeySet exists; a key load sets it, no command clears it, a step clears it by reset
and only by reset, and the five commands that need a key answer `NoKeyError` when it is 0. -/
def Obligations.KeyValidFlag : Prop :=
  (∀ s : State, s.keyValid = true ↔ ∃ ks, s.subkeys = some ks) ∧
  (∀ (s : State) (rest : List PortEvent), s.pending = .reset :: rest → ∃ t, step s = .next t ∧ t.keyValid = false) ∧
  (∀ (s t : State) key, exec (.keygen key) s = .next t → t.keyValid = true) ∧
  (∀ (s t : State) (d : List Byte), d.length = 8 → exec (.new d) s = .next t → t.keyValid = true) ∧
  (∀ (i : Instr) (s t : State), exec i s = .next t → s.keyValid = true → t.keyValid = true) ∧
  (∀ s t : State, step s = .next t → s.keyValid = true → t.keyValid = false → ∃ rest, s.pending = .reset :: rest) ∧
  (∀ s x i d, s.keyValid = false →
    Answers (.enc x) s (.word .noKeyError 0) ∧ Answers (.dec x) s (.word .noKeyError 0) ∧
    Answers (.rdsk i) s (.word .noKeyError 0) ∧ Answers (.encrypt d) s (.buffer .noKeyError []) ∧
    Answers (.decrypt d) s (.buffer .noKeyError []))

/-- R31: every step, of any command record or a reset, keeps that a held SubkeySet is the key schedule of some key. -/
def Obligations.KeyScheduleInvariantKept : Prop :=
  ∀ s t : State, s.keyScheduleInv → step s = .next t → t.keyScheduleInv

/-- R65, R196 (b): every step keeps that no error response given so far carries data. -/
def Obligations.ErrorsCarryNoDataKept : Prop :=
  ∀ s t : State, s.errorsCarryNoData → step s = .next t → t.errorsCarryNoData

/-- The invariants hold right after reset. -/
def Obligations.ResetMeetsTheInvariants : Prop :=
  State.reset.keyScheduleInv ∧ State.reset.errorsCarryNoData ∧ State.reset.safe

/-- R27, R52 (d): the response and the next `SUBKEY` depend on the command and on the `SUBKEY` and `KEY_VALID` at its start, on
nothing else; PERM.*, SUBST and F (with PAD and UNPAD) give one response in all states and write none. -/
def Obligations.ResponseDependsOnSubkeysAlone : Prop :=
  (∀ (i : Instr) (s s' : State), s.subkeys = s'.subkeys → ∃ (k : Option SubkeySet) (r : Response),
    exec i s = .next { s with subkeys := k, responses := s.responses ++ [r] } ∧
    exec i s' = .next { s' with subkeys := k, responses := s'.responses ++ [r] }) ∧
  (∀ i, isStateless i = true → ∃ r, ∀ s, Answers i s r)

/-- R49: a command issued twice gives the same response twice and the second time changes nothing. -/
def Obligations.CommandsAreIdempotent : Prop :=
  ∀ (i : Instr) (s : State), ∃ t r, exec i s = .next t ∧ t.responses = s.responses ++ [r] ∧ Answers i t r

/-- R30, R210: the reset state has no SubkeySet and `KEY_VALID` 0; a reset between two commands does this and nothing else
and gives no response. That a reset comes through the queue and leaves what is pending behind it is the model's choice
(log 1, log 10), and so is that it leaves the list of responses (log 2). -/
def Obligations.ResetClearsTheKey : Prop :=
  State.reset.subkeys = none ∧ State.reset.keyValid = false ∧
  ∀ (s : State) (rest : List PortEvent), s.pending = .reset :: rest →
    step s = .next { s with subkeys := none, pending := rest }

/-! ## Encoding -/

/-- Decoding an encoded command gives it back, as a record and as packed bytes followed by anything, for every length field
that can hold the buffer's length. The byte order of the packed fields is the model's choice (log 6, log 7). -/
def Obligations.DecodeOfEncode : Prop :=
  (∀ i, decode (encode i) = .ok i) ∧
  ∀ (cfg : Config) (i : Instr) (rest : List Byte), i.wellFormed cfg = true →
    decodeBytes cfg.port (encodeBytes cfg.port i ++ rest) = .ok (i, rest)

/-- A record in the exact form of R60 and R64 is the encoding of what it decodes to, and every encoding is in that form. -/
def Obligations.EncodeOfDecode : Prop :=
  (∀ c i, c.wellFormed = true → decode c = .ok i → encode i = c) ∧ ∀ i, (encode i).wellFormed = true

/-- R64: bits of `a` and `b` outside the operand slices, and fields a command does not use, do not matter. That a record has
the fields of both formats is the model's choice (log 5). -/
def Obligations.SurplusOperandBitsIgnored : Prop :=
  ∀ c c' : Command, c.op ∈ commandCodes → c'.op = c.op →
    c'.a.toNat % 2 ^ (operandSlices c.op).1 = c.a.toNat % 2 ^ (operandSlices c.op).1 →
    c'.b.toNat % 2 ^ (operandSlices c.op).2.1 = c.b.toNat % 2 ^ (operandSlices c.op).2.1 →
    ((operandSlices c.op).2.2 = true → c'.data = c.data) → decode c' = decode c

/-- R66: the fields of the 120-bit command word and of the 72-bit response word, and the packed bytes of both formats. That
the bytes of a field come most significant first is the model's choice (log 6, log 7). -/
def Obligations.PackedLayouts : Prop :=
  (∀ c : Command, c.packed.extractLsb' 112 8 = c.op ∧ c.packed.extractLsb' 64 48 = c.b ∧
    c.packed.extractLsb' 0 64 = c.a) ∧
  (∀ st v, (packedResponse st v).extractLsb' 64 8 = st.code ∧ (packedResponse st v).extractLsb' 0 64 = v) ∧
  (∀ (p : PortProtocol) (c : Command), formatOf c.op = .word →
    (writeCommand p c).length = 15 ∧ beNat (writeCommand p c) = c.packed.toNat) ∧
  (∀ (p : PortProtocol) (c : Command), formatOf c.op = .buffer → ∃ len : List Byte,
    writeCommand p c = c.op :: (len ++ c.data) ∧ len.length = p.lenBytes ∧
    beNat len = c.data.length % 256 ^ p.lenBytes) ∧
  (∀ (p : PortProtocol) st v, (Response.bytes p (.word st v)).length = 9 ∧
    beNat (Response.bytes p (.word st v)) = (packedResponse st v).toNat) ∧
  (∀ (p : PortProtocol) st d, ∃ len : List Byte, Response.bytes p (.buffer st d) = st.code :: (len ++ d) ∧
    len.length = p.lenBytes ∧ beNat len = d.length % 256 ^ p.lenBytes)

/-- Words written out from R66 and `95_test_vectors.md` section 10 decode to the commands they stand for. That the 120-bit
word of a format W command comes most significant byte first is the model's choice (log 7); so is the one-byte length field of
the last (log 6). -/
def Obligations.WrittenOutWordsDecode : Prop :=
  decodeBytes ⟨1⟩ [0x01, 0, 0, 0, 0, 0, 0, 0x13, 0x34, 0x57, 0x79, 0x9B, 0xBC, 0xDF, 0xF1] =
    .ok (.keygen 0x133457799BBCDFF1, []) ∧
  decodeBytes ⟨1⟩ [0x04, 0x1B, 0x02, 0xEF, 0xFC, 0x70, 0x72, 0, 0, 0, 0, 0xF0, 0xAA, 0xF0, 0xAA] =
    .ok (.f 0xF0AAF0AA 0x1B02EFFC7072, []) ∧
  decodeBytes ⟨1⟩ [0x15, 0, 0, 0, 0, 0, 0, 0x00, 0xE1, 0x99, 0x55, 0xFA, 0xAC, 0xCF, 0x1E] =
    .ok (.permPc2 0xE19955FAACCF1E, []) ∧
  decodeBytes ⟨1⟩ [0x23, 3, 0x18, 0x0F, 0x8B] = .ok (.decrypt [0x18, 0x0F, 0x8B], [])

/-- R71: EXPAND and SUBSTITUTE are other names; `generateSubkeys(k)` as seventeen commands, from any state, answers the
sixteen subkeys in order; CRYPT and TRANSFORM are the commands they stand for. -/
def Obligations.PseudoCommands : Prop :=
  (∀ (s : State) (key : Block), ∃ t,
    RunsTo 17 { s with pending := (Instr.generateSubkeysProgram key).map fun i => .command (encode i) } t ∧
    t.responses = s.responses ++ (.word .ok 0 ::
      (generateSubkeys key).toList.map fun k => .word .ok (k.setWidth 64))) ∧
  (∀ ks (decrypt : Bool) x, AnswersWord (Instr.crypt decrypt x) ks (processBlock x ks decrypt)) ∧
  (∀ ks (decrypt : Bool) (x : List Byte) i, Instr.transform decrypt x = some i →
    AnswersBuffer i ks (Machine.transform x ks decrypt)) ∧
  (∀ x : List Byte, Instr.transform true x = none ↔ x.length % 8 ≠ 0) ∧
  (∀ x, Instr.expand x = .permE x) ∧ (∀ x, Instr.substitute x = .subst x)
end

