-- ==== Sys2Proof/Laws/Decode.lean ====
section
/-! SUPPORT. The small lemmas of the byte-order helpers and of the decoder. -/

namespace Sys2Proof

theorem foldl_beNat (a : Nat) (l : List Byte) :
    l.foldl (fun acc x => acc * 256 + x.toNat) a = a * 256 ^ l.length + beNat l := by
  induction l generalizing a with
  | nil => simp [beNat]
  | cons x l ih =>
    simp only [beNat, List.foldl_cons, List.length_cons]
    rw [ih, ih (0 * 256 + x.toNat)]
    ring

theorem beNat_cons (x : Byte) (l : List Byte) : beNat (x :: l) = x.toNat * 256 ^ l.length + beNat l := by
  refine (foldl_beNat (0 * 256 + x.toNat) l).trans ?_
  rw [Nat.zero_mul, Nat.zero_add]

theorem beNat_append (a b : List Byte) : beNat (a ++ b) = beNat a * 256 ^ b.length + beNat b :=
  (List.foldl_append ..).trans (foldl_beNat _ _)

@[simp] theorem beBytes_length (k v : Nat) : (beBytes k v).length = k := by
  simp [beBytes]

theorem beBytes_succ (k v : Nat) : beBytes (k + 1) v = BitVec.ofNat 8 (v / 256 ^ k) :: beBytes k v := by
  unfold beBytes
  rw [List.range_succ_eq_map, List.map_cons, List.map_map]
  refine congrArg₂ _ rfl (List.map_congr_left fun j _ => ?_)
  simp only [Function.comp]
  rw [Nat.succ_eq_add_one, show k + 1 - 1 - (j + 1) = k - 1 - j by omega]

/-- Reading back a written field gives its value modulo what the field holds. -/
theorem beNat_beBytes (k v : Nat) : beNat (beBytes k v) = v % 256 ^ k := by
  induction k with
  | zero => simp [beBytes, beNat, Nat.mod_one]
  | succ k ih =>
    rw [beBytes_succ, beNat_cons, beBytes_length, ih, BitVec.toNat_ofNat, Nat.pow_succ 256 k, Nat.mod_mul, Nat.mul_comm (256 ^ k),
      Nat.add_comm]

/-- A zero-extended operand is read back by its slice. -/
theorem extractLsb'_setWidth {n k : Nat} (h : n ≤ k) (x : BitVec n) : (x.setWidth k).extractLsb' 0 n = x := by
  refine BitVec.eq_of_getLsbD_eq fun i hi => ?_
  simp [hi]
  omega

/-- The packed word as a number. -/
theorem packed_toNat (c : Command) :
    c.packed.toNat = c.op.toNat * 2 ^ 112 + c.b.toNat * 2 ^ 64 + c.a.toNat := by
  unfold Command.packed
  rw [BitVec.toNat_append, BitVec.toNat_append, ← Nat.shiftLeft_add_eq_or_of_lt c.a.isLt,
    ← Nat.shiftLeft_add_eq_or_of_lt c.b.isLt, Nat.shiftLeft_eq, Nat.shiftLeft_eq]
  ring

/-- The code of the encoding of what a record decodes to is the record's code. -/
theorem encode_op_of_decode {c : Command} {i : Instr} (h : decode c = .ok i) : (encode i).op = c.op := by
  unfold decode at h
  split at h <;> first | (injection h with h; subst h; simp_all [encode, Command.word, Command.buffer]) | simp at h

end Sys2Proof
end

