-- ==== Sys2Proof/Laws/Operands.lean ====
section
/-! SUPPORT. The small lemmas of operand and result assembly. -/

namespace Sys2Proof.Machine

/-- A bit of two halves put together. -/
theorem getLsbD_append_half (a b : Half) (i : Nat) :
    (a ++ b : Block).getLsbD i = if i < 32 then b.getLsbD i else a.getLsbD (i - 32) :=
  @BitVec.getLsbD_append 32 32 i a b

/-- A bit of two key halves put together. -/
theorem getLsbD_append_keyHalf (a b : KeyHalf) (i : Nat) :
    (a ++ b : KeyPair).getLsbD i = if i < 28 then b.getLsbD i else a.getLsbD (i - 28) :=
  @BitVec.getLsbD_append 28 28 i a b

theorem halves_append (w : Block) : (leftHalf w ++ rightHalf w : Block) = w := by
  refine BitVec.eq_of_getLsbD_eq fun i hi => ?_
  rw [getLsbD_append_half]
  split
  · simp [rightHalf, *]
  · simp [leftHalf]
    rw [show 32 + (i - 32) = i by omega]
    simp
    omega

theorem leftHalf_append (a b : Half) : leftHalf (a ++ b) = a := by
  refine BitVec.eq_of_getLsbD_eq fun i hi => ?_
  simp only [leftHalf, BitVec.getLsbD_extractLsb']
  refine Eq.trans (congrArg _ (getLsbD_append_half a b (32 + i))) ?_
  simp [hi]

theorem rightHalf_append (a b : Half) : rightHalf (a ++ b) = b := by
  refine BitVec.eq_of_getLsbD_eq fun i hi => ?_
  simp only [rightHalf, BitVec.getLsbD_extractLsb']
  refine Eq.trans (congrArg _ (getLsbD_append_half a b (0 + i))) ?_
  simp [hi]

@[simp] theorem bytes64_length (w : Block) : (bytes64 w).length = 8 := rfl

@[simp] theorem chunks_nil : chunks [] = [] := rfl

/-- A whole chunk in front is the first chunk. -/
theorem chunks_append {c : List Byte} (r : List Byte) (h : c.length = 8) : chunks (c ++ r) = c :: chunks r := by
  unfold chunks chunkCount
  have hl : (c ++ r).length + 7 = (r.length + 7) + 8 := by
    simp [h]
    omega
  rw [hl, Nat.add_div_right _ (by omega), List.range_succ_eq_map, List.map_cons, List.map_map]
  congr 1
  · simp [h]
  · refine List.map_congr_left fun j _ => ?_
    simp only [Function.comp]
    rw [List.drop_append, h, List.drop_eq_nil_of_le (by omega), List.nil_append, show 8 * (j + 1) - 8 = 8 * j by omega]

/-- A whole chunk has no zero fill. -/
theorem zeroFill_of_whole {c : List Byte} (h : c.length = 8) : zeroFill c = c := by
  simp [zeroFill, h]

end Sys2Proof.Machine
end

