-- ==== Sys2Proof/Laws/State.lean ====
section
/-! SUPPORT. One lemma per field per update of the state, and of the port. -/

namespace Sys2Proof.Machine

@[simp] theorem respond_subkeys (s : State) (r : Response) : (s.respond r).subkeys = s.subkeys := rfl
@[simp] theorem respond_pending (s : State) (r : Response) : (s.respond r).pending = s.pending := rfl
@[simp] theorem respond_responses (s : State) (r : Response) : (s.respond r).responses = s.responses ++ [r] := rfl
@[simp] theorem respond_keyValid (s : State) (r : Response) : (s.respond r).keyValid = s.keyValid := rfl

@[simp] theorem loadKey_subkeys (s : State) (ks : SubkeySet) : (s.loadKey ks).subkeys = some ks := rfl
@[simp] theorem loadKey_pending (s : State) (ks : SubkeySet) : (s.loadKey ks).pending = s.pending := rfl
@[simp] theorem loadKey_responses (s : State) (ks : SubkeySet) : (s.loadKey ks).responses = s.responses := rfl
@[simp] theorem loadKey_keyValid (s : State) (ks : SubkeySet) : (s.loadKey ks).keyValid = true := rfl

@[simp] theorem take_subkeys (s : State) (l : List PortEvent) : (s.take l).subkeys = s.subkeys := rfl
@[simp] theorem take_pending (s : State) (l : List PortEvent) : (s.take l).pending = l := rfl
@[simp] theorem take_responses (s : State) (l : List PortEvent) : (s.take l).responses = s.responses := rfl
@[simp] theorem take_keyValid (s : State) (l : List PortEvent) : (s.take l).keyValid = s.keyValid := rfl

@[simp] theorem issueFirst_subkeys (s : State) (c : Command) : (s.issueFirst c).subkeys = s.subkeys := rfl
@[simp] theorem issueFirst_pending (s : State) (c : Command) :
    (s.issueFirst c).pending = .command c :: s.pending := rfl
@[simp] theorem issueFirst_responses (s : State) (c : Command) : (s.issueFirst c).responses = s.responses := rfl
@[simp] theorem issueFirst_take (s : State) (c : Command) : (s.issueFirst c).take s.pending = s := rfl

@[simp] theorem reset_subkeys : State.reset.subkeys = none := rfl
@[simp] theorem reset_pending : State.reset.pending = [] := rfl
@[simp] theorem reset_responses : State.reset.responses = [] := rfl

end Sys2Proof.Machine
end

