-- ==== Sys2Proof/Laws/Ops.lean ====
section
/-! SUPPORT. One lemma per shared operation that says all it can do; provers cite these and do not unfold the operations. -/

namespace Sys2Proof.Machine

theorem completeWord_eq {n : Nat} (v : BitVec n) (s : State) :
    completeWord v s = .next (s.respond (.word .ok (v.setWidth 64))) := rfl

theorem completeBuffer_eq (d : List Byte) (s : State) :
    completeBuffer d s = .next (s.respond (.buffer .ok d)) := rfl

theorem raise_word (st : Status) (s : State) : raise .word st s = .next (s.respond (.word st 0)) := rfl

theorem raise_buffer (st : Status) (s : State) : raise .buffer st s = .next (s.respond (.buffer st [])) := rfl

/-- Everything taking an error can do: one response without data, in the format asked for, and no other change. -/
theorem raise_cases (fmt : Format) (st : Status) (s : State) :
    ∃ r : Response, raise fmt st s = .next (s.respond r) ∧ r.status = st ∧ r.format = fmt ∧ r.noData = true := by
  cases fmt
  · exact ⟨.word st 0, rfl, rfl, rfl, rfl⟩
  · exact ⟨.buffer st [], rfl, rfl, rfl, rfl⟩

theorem withKey_none {s : State} (fmt : Format) (run : SubkeySet → State → Outcome) (h : s.subkeys = none) :
    withKey fmt run s = raise fmt .noKeyError s := by
  simp [withKey, h]

theorem withKey_some {s : State} {ks : SubkeySet} (fmt : Format) (run : SubkeySet → State → Outcome)
    (h : s.subkeys = some ks) : withKey fmt run s = run ks s := by
  simp [withKey, h]

/-- Everything the key check can do. -/
theorem withKey_cases (fmt : Format) (run : SubkeySet → State → Outcome) (s : State) :
    (s.subkeys = none ∧ withKey fmt run s = raise fmt .noKeyError s) ∨
    (∃ ks, s.subkeys = some ks ∧ withKey fmt run s = run ks s) := by
  cases h : s.subkeys with
  | none => exact .inl ⟨rfl, withKey_none fmt run h⟩
  | some ks => exact .inr ⟨ks, rfl, withKey_some fmt run h⟩

theorem idle_eq (s : State) : idle s = .next s := rfl

theorem takeReset_eq (s : State) : takeReset s = .next { s with subkeys := none } := rfl

theorem rejectCommand_eq (op : Byte) (s : State) :
    rejectCommand op s = .next (s.respond (errorResponse (formatOf op) .illegalCommand)) := rfl

@[simp] theorem errorResponse_status (fmt : Format) (st : Status) : (errorResponse fmt st).status = st := by
  cases fmt <;> rfl

@[simp] theorem errorResponse_format (fmt : Format) (st : Status) : (errorResponse fmt st).format = fmt := by
  cases fmt <;> rfl

@[simp] theorem errorResponse_noData (fmt : Format) (st : Status) : (errorResponse fmt st).noData = true := by
  cases fmt <;> rfl

/-- KEY_VALID read as a case split on the field (R22, R30). -/
theorem keyValid_iff (s : State) : s.keyValid = true ↔ ∃ ks, s.subkeys = some ks := by
  simp [State.keyValid, Option.isSome_iff_exists]

end Sys2Proof.Machine
end

