-- ==== Sys2Proof/Laws/PerInstr.lean ====
section
/-! SUPPORT. Said per instruction: the record the encoder writes is in the form R60 and R64 ask of a host. -/

namespace Sys2Proof.Laws.EncodedForm

/-- The encoded record is of one format, its surplus operand bits are zero, and its code is a command (R60, R64, R61). -/
def Statement (i : Instr) : Prop :=
  (encode i).wellFormed = true

/-- A zero-extended operand leaves no surplus bit. -/
theorem surplus_zero {n k m : Nat} (x : BitVec n) (h : n ≤ k) : (x.setWidth 64).extractLsb' k m = 0#m := by
  ext i hi
  have : x.getLsbD (k + i) = false := BitVec.getLsbD_of_ge x _ (by omega)
  simp [this]

/-- A format W record with no surplus bits is in the form asked for. -/
theorem word_form {op : Byte} {a : Block} {b : Subkey} (hf : formatOf op = .word)
    (hs : (Command.word op a b).surplusZero = true) (hd : (decode (.word op a b)).isOk = true) :
    (Command.word op a b).wellFormed = true := by
  unfold Command.wellFormed
  rw [hs, hd]
  simp [Command.oneFormat, Command.word, hf]

/-- A format B record is in the form asked for when its code is a command. -/
theorem buffer_form {op : Byte} {d : List Byte} (hf : formatOf op = .buffer)
    (hs : (Command.buffer op d).surplusZero = true) (hd : (decode (.buffer op d)).isOk = true) :
    (Command.buffer op d).wellFormed = true := by
  unfold Command.wellFormed
  rw [hs, hd]
  simp [Command.oneFormat, Command.buffer, hf]

theorem keygen (key : Block) : Statement (.keygen key) :=
  word_form rfl rfl rfl
theorem enc (x : Block) : Statement (.enc x) :=
  word_form rfl rfl rfl
theorem dec (x : Block) : Statement (.dec x) :=
  word_form rfl rfl rfl
theorem f (r : Half) (k : Subkey) : Statement (.f r k) :=
  word_form rfl (by simp [Command.word, Command.surplusZero, surplus_zero]) rfl
theorem subst (x : Subkey) : Statement (.subst x) :=
  word_form rfl rfl rfl
theorem rdsk (i : Fin 16) : Statement (.rdsk i) := by
  revert i
  unfold Statement
  decide
theorem permIp (x : Block) : Statement (.permIp x) :=
  word_form rfl rfl rfl
theorem permFp (x : Block) : Statement (.permFp x) :=
  word_form rfl rfl rfl
theorem permE (x : Half) : Statement (.permE x) :=
  word_form rfl (by simp [Command.word, Command.surplusZero, surplus_zero]) rfl
theorem permP (x : Half) : Statement (.permP x) :=
  word_form rfl (by simp [Command.word, Command.surplusZero, surplus_zero]) rfl
theorem permPc1 (x : Block) : Statement (.permPc1 x) :=
  word_form rfl rfl rfl
theorem permPc2 (x : KeyPair) : Statement (.permPc2 x) :=
  word_form rfl (by simp [Command.word, Command.surplusZero, surplus_zero]) rfl
theorem pad (d : List Byte) : Statement (.pad d) :=
  buffer_form rfl rfl rfl
theorem unpad (d : List Byte) : Statement (.unpad d) :=
  buffer_form rfl rfl rfl
theorem encrypt (d : List Byte) : Statement (.encrypt d) :=
  buffer_form rfl rfl rfl
theorem decrypt (d : List Byte) : Statement (.decrypt d) :=
  buffer_form rfl rfl rfl
theorem new (d : List Byte) : Statement (.new d) :=
  buffer_form rfl rfl rfl

end Sys2Proof.Laws.EncodedForm
end

