-- ==== Sys2Proof/Laws/Permute.lean ====
section
/-! SUPPORT. The small lemmas of `permute`. -/

namespace Sys2Proof.Machine

/-- Output DES position `j + 1` of a permutation, with `getMsbD j` reading DES position `j + 1`. -/
theorem permute_getMsbD {W n : Nat} (t : PermTable W n) (x : BitVec W) (j : Nat) (h : j < n) :
    (permute t x).getMsbD j = x.getLsbD (W - t.entries[j]'(t.length_eq.symm ▸ h)) := by
  have hl : j < t.entries.length := by rw [t.length_eq]; exact h
  simp [permute, BitVec.getMsbD_ofBoolListBE, List.getD_eq_getElem?_getD, hl]

/-- The same bit, read from the operand by DES position (R80). -/
theorem permute_getMsbD_position {W n : Nat} (t : PermTable W n) (x : BitVec W) (j : Nat) (h : j < n) :
    (permute t x).getMsbD j = x.getMsbD (t.entries.getD j 0 - 1) := by
  have hl : j < t.entries.length := by rw [t.length_eq]; exact h
  rw [permute_getMsbD t x j h, List.getD_eq_getElem?_getD, List.getElem?_eq_getElem hl, BitVec.getMsbD_eq_getLsbD]
  have hr := t.inRange t.entries[j] (List.getElem_mem _)
  have h1 : t.entries[j] - 1 < W := by omega
  simp [h1]
  congr 1
  omega

/-- Two words that agree on every position a table selects have the same image. -/
theorem permute_congr {W n : Nat} (t : PermTable W n) (x y : BitVec W)
    (h : ∀ p ∈ t.entries, x.getLsbD (W - p) = y.getLsbD (W - p)) : permute t x = permute t y := by
  refine BitVec.eq_of_getMsbD_eq fun j hj => ?_
  rw [permute_getMsbD t x j hj, permute_getMsbD t y j hj]
  exact h _ (List.getElem_mem _)

end Sys2Proof.Machine
end

