-- ==== Sys2Proof/Laws/Step.lean ====
section
/-! SUPPORT. Said once: what a command and a step can do. -/

namespace Sys2Proof.Machine

/-- Everything a command can do: it answers a next state with one more response, and `SUBKEY` is either as before or, when
the response is `OK`, the key schedule of some key. An error response carries no data and changes nothing else. -/
theorem exec_cases (i : Instr) (s : State) :
    ∃ r : Response, exec i s = .next (s.respond r) ∧ (r.status = .ok ∨ r.noData = true) ∨
      ∃ key, exec i s = .next ((s.loadKey (generateSubkeys key)).respond r) ∧ r.status = .ok := by
  have hword : ∀ {n : Nat} (v : BitVec n), ∃ r : Response,
      completeWord v s = .next (s.respond r) ∧ (r.status = .ok ∨ r.noData = true) := fun v =>
    ⟨_, completeWord_eq v s, .inl rfl⟩
  have hbuf : ∀ d : List Byte, ∃ r : Response,
      completeBuffer d s = .next (s.respond r) ∧ (r.status = .ok ∨ r.noData = true) := fun d =>
    ⟨_, completeBuffer_eq d s, .inl rfl⟩
  have herr : ∀ fmt st, ∃ r : Response,
      raise fmt st s = .next (s.respond r) ∧ (r.status = .ok ∨ r.noData = true) := fun fmt st =>
    let ⟨r, h, _, _, hd⟩ := raise_cases fmt st s
    ⟨r, h, .inr hd⟩
  have same : ∀ {o : Outcome}, exec i s = o →
      (∃ r : Response, o = .next (s.respond r) ∧ (r.status = .ok ∨ r.noData = true)) →
      ∃ r : Response, exec i s = .next (s.respond r) ∧ (r.status = .ok ∨ r.noData = true) ∨
        ∃ key, exec i s = .next ((s.loadKey (generateSubkeys key)).respond r) ∧ r.status = .ok :=
    fun h ⟨r, h1, h2⟩ => ⟨r, .inl ⟨h.trans h1, h2⟩⟩
  cases i with
  | keygen key => exact ⟨_, .inr ⟨key, rfl, rfl⟩⟩
  | enc x =>
    rcases withKey_cases .word (fun ks s => completeWord (processBlock x ks false) s) s with ⟨_, h⟩ | ⟨ks, _, h⟩
    · exact same h (herr _ _)
    · exact same h (hword _)
  | dec x =>
    rcases withKey_cases .word (fun ks s => completeWord (processBlock x ks true) s) s with ⟨_, h⟩ | ⟨ks, _, h⟩
    · exact same h (herr _ _)
    · exact same h (hword _)
  | f r k => exact same rfl (hword _)
  | subst x => exact same rfl (hword _)
  | rdsk k =>
    rcases withKey_cases .word (fun ks s => completeWord ks[k] s) s with ⟨_, h⟩ | ⟨ks, _, h⟩
    · exact same h (herr _ _)
    · exact same h (hword _)
  | permIp x => exact same rfl (hword _)
  | permFp x => exact same rfl (hword _)
  | permE x => exact same rfl (hword _)
  | permP x => exact same rfl (hword _)
  | permPc1 x => exact same rfl (hword _)
  | permPc2 x => exact same rfl (hword _)
  | pad d => exact same rfl (hbuf _)
  | unpad d =>
    cases h : unpadBytes d with
    | none => exact same (by simp [exec, execUnpad, h]) (herr .buffer .paddingError)
    | some y => exact same (by simp [exec, execUnpad, h]) (hbuf y)
  | encrypt d =>
    rcases withKey_cases .buffer (fun ks s => completeBuffer (transform d ks false) s) s with ⟨_, h⟩ | ⟨ks, _, h⟩
    · exact same h (herr _ _)
    · exact same h (hbuf _)
  | decrypt d =>
    rcases withKey_cases .buffer (fun ks s =>
      if d.length % 8 ≠ 0 then raise .buffer .blockLengthError s
      else completeBuffer (transform d ks true) s) s with ⟨_, h⟩ | ⟨ks, _, h⟩
    · exact same h (herr _ _)
    · by_cases hl : d.length % 8 ≠ 0
      · exact same (h.trans (if_pos hl)) (herr _ _)
      · exact same (h.trans (if_neg hl)) (hbuf _)
  | new d =>
    by_cases hl : d.length ≠ 8
    · exact same (if_pos hl) (herr _ _)
    · exact ⟨_, .inr ⟨be64 d, if_neg hl, rfl⟩⟩

/-- Everything a step can do. -/
theorem step_cases (s : State) :
    (s.pending = [] ∧ step s = .next s) ∨
    (∃ rest, s.pending = .reset :: rest ∧ step s = .next { s with subkeys := none, pending := rest }) ∨
    (∃ c rest i, s.pending = .command c :: rest ∧ decode c = .ok i ∧ step s = exec i (s.take rest)) ∨
    (∃ c rest e, s.pending = .command c :: rest ∧ decode c = .error e ∧
      step s = .next ((s.take rest).respond (errorResponse (formatOf c.op) .illegalCommand))) := by
  cases hp : s.pending with
  | nil => exact .inl ⟨rfl, by simp [step, hp, idle]⟩
  | cons ev rest =>
    cases ev with
    | reset => exact .inr (.inl ⟨rest, rfl, by simp [step, hp, takeReset, State.take]⟩)
    | command c =>
      cases hd : decode c with
      | ok i => exact .inr (.inr (.inl ⟨c, rest, i, rfl, hd, by simp [step, hp, hd]⟩))
      | error e => exact .inr (.inr (.inr ⟨c, rest, e, rfl, hd, by simp [step, hp, hd, rejectCommand_eq]⟩))

end Sys2Proof.Machine
end

