-- ==== Sys2Proof/Tests/Slice0.lean ====
section
/-! SUPPORT. The model's own tests. Every expected number stands in spec/95_test_vectors.md or in the rule named; none was read
off the model. `test_...` checks the model; `witness_...` shows that the hypotheses of the obligation named can be met. -/

namespace Sys2Proof.Tests

set_option Elab.async false

open Sys2Proof.Machine

/-! Helpers. -/

/-- The worked example's key (95 section 1, C1). -/
def katKey : Block := 0x133457799BBCDFF1

/-- A state with a key loaded, nothing issued and nothing answered. -/
def loaded (key : Block) : State := { State.reset with subkeys := some (generateSubkeys key) }

/-- The last response of an outcome. -/
def lastReply : Outcome → Option Response
  | .next t => t.responses.getLast?
  | .fault _ => none
  | .refused _ => none

/-- The response of one command. -/
def reply (i : Instr) (s : State) : Option Response := lastReply (exec i s)

/-- The subkeys after one step or command. -/
def subkeysOf : Outcome → Option SubkeySet
  | .next t => t.subkeys
  | .fault _ => none
  | .refused _ => none

/-- A state with one command record issued. -/
def issue (c : Command) (s : State) : State := { s with pending := [.command c] }

/-- A port whose packed length field has one byte, as the programs of 95 section 10 write it. -/
def port1 : PortProtocol := { lenBytes := 1 }

/-! ## Decoding: one written-out word for every command (R61, R66; 95 section 10). That a packed word comes most significant
byte first is log 7; that the length field does is log 6. -/

theorem test_decode_keygen : decodeBytes port1 [0x01, 0, 0, 0, 0, 0, 0, 0x13, 0x34, 0x57, 0x79, 0x9B, 0xBC, 0xDF, 0xF1] =
    .ok (.keygen 0x133457799BBCDFF1, []) := by decide +kernel
theorem test_decode_enc : decodeBytes port1 [0x02, 0, 0, 0, 0, 0, 0, 0x01, 0x23, 0x45, 0x67, 0x89, 0xAB, 0xCD, 0xEF] =
    .ok (.enc 0x0123456789ABCDEF, []) := by decide +kernel
theorem test_decode_dec : decodeBytes port1 [0x03, 0, 0, 0, 0, 0, 0, 0x85, 0xE8, 0x13, 0x54, 0x0F, 0x0A, 0xB4, 0x05] =
    .ok (.dec 0x85E813540F0AB405, []) := by decide +kernel
theorem test_decode_f :
    decodeBytes port1 [0x04, 0x79, 0xAE, 0xD9, 0xDB, 0xC9, 0xE5, 0, 0, 0, 0, 0xEF, 0x4A, 0x65, 0x44, 0x77] =
    .ok (.f 0xEF4A6544 0x79AED9DBC9E5, [0x77]) := by decide +kernel
theorem test_decode_subst : decodeBytes port1 [0x05, 0x61, 0x17, 0xBA, 0x86, 0x65, 0x27, 0, 0, 0, 0, 0, 0, 0, 0] =
    .ok (.subst 0x6117BA866527, []) := by decide +kernel
theorem test_decode_rdsk : decodeBytes port1 [0x06, 0, 0, 0, 0, 0, 0, 0, 0, 0, 0, 0, 0, 0, 0x0F] =
    .ok (.rdsk 15, []) := by decide +kernel
theorem test_decode_permIp : decodeBytes port1 [0x10, 0, 0, 0, 0, 0, 0, 0x01, 0x23, 0x45, 0x67, 0x89, 0xAB, 0xCD, 0xEF] =
    .ok (.permIp 0x0123456789ABCDEF, []) := by decide +kernel
theorem test_decode_permFp : decodeBytes port1 [0x11, 0, 0, 0, 0, 0, 0, 0x0A, 0x4C, 0xD9, 0x95, 0x43, 0x42, 0x32, 0x34] =
    .ok (.permFp 0x0A4CD99543423234, []) := by decide +kernel
/-- 95 section 3.1: surplus bits of `a` are ignored. -/
theorem test_decode_permE : decode (.word 0x12 0xFFFFFFFF00000001 0) = .ok (.permE 0x00000001) := by decide +kernel
theorem test_decode_permP : decodeBytes port1 [0x13, 0, 0, 0, 0, 0, 0, 0, 0, 0, 0, 0x5C, 0x82, 0xB5, 0x97] =
    .ok (.permP 0x5C82B597, []) := by decide +kernel
theorem test_decode_permPc1 : decodeBytes port1 [0x14, 0, 0, 0, 0, 0, 0, 0x13, 0x34, 0x57, 0x79, 0x9B, 0xBC, 0xDF, 0xF1] =
    .ok (.permPc1 0x133457799BBCDFF1, []) := by decide +kernel
/-- 95 section 3.1: `a = 0xFF00000000000001`. -/
theorem test_decode_permPc2 : decode (.word 0x15 0xFF00000000000001 0xFFFFFFFFFFFF) = .ok (.permPc2 1) := by decide +kernel
theorem test_decode_pad : decodeBytes port1 [0x20, 3, 1, 2, 3, 9] = .ok (.pad [1, 2, 3], [9]) := by decide +kernel
theorem test_decode_unpad : decodeBytes port1 [0x21, 8, 1, 2, 3, 4, 5, 6, 7, 3] =
    .ok (.unpad [1, 2, 3, 4, 5, 6, 7, 3], []) := by decide +kernel
theorem test_decode_encrypt : decodeBytes { lenBytes := 2 } [0x22, 0, 1, 0x11] = .ok (.encrypt [0x11], []) := by decide +kernel
theorem test_decode_decrypt : decodeBytes port1 [0x23, 3, 0x18, 0x0F, 0x8B] = .ok (.decrypt [0x18, 0x0F, 0x8B], []) := by
  decide +kernel
theorem test_decode_new : decodeBytes port1 [0x24, 8, 0x13, 0x34, 0x57, 0x79, 0x9B, 0xBC, 0xDF, 0xF1] =
    .ok (.new [0x13, 0x34, 0x57, 0x79, 0x9B, 0xBC, 0xDF, 0xF1], []) := by decide +kernel

/-- An illegal code is refused by name after its whole command is read (R60, R68, R73). -/
theorem test_decode_illegal : decodeBytes port1 [0x2F, 3, 1, 2, 3] = .error (.illegalCommand 0x2F) := by decide +kernel
theorem test_decode_truncated : decodeBytes port1 [0x2F, 3, 1, 2] = .error .truncated ∧
    decodeBytes port1 [0x02, 0, 0, 0, 0, 0, 0, 0, 0, 0, 0, 0, 0, 0] = .error .truncated ∧
    decodeBytes port1 [] = .error .truncated := by decide +kernel

/-- 95 section 7: a packed illegal command and its packed response. -/
theorem test_packed_words : (Command.word 0x16 0x0123456789ABCDEF 0).packed = 0x160000000000000123456789ABCDEF#120 ∧
    packedResponse .illegalCommand 0 = 0x050000000000000000#72 := by decide +kernel
/-- 95 section 10, P4 step 12, P1: packed responses. -/
theorem test_response_bytes : Response.bytes port1 (.buffer .paddingError []) = [0x03, 0] ∧
    Response.bytes port1 (.word .ok 0x1B02EFFC7072) = [0, 0, 0, 0x1B, 0x02, 0xEF, 0xFC, 0x70, 0x72] := by decide +kernel

/-- R70: the lines of the spec. -/
theorem test_written :
    (Instr.f 0xF0AAF0AA 0x1B02EFFC7072).written = "F 0xF0AAF0AA, 0x1B02EFFC7072".toList ∧
    (Instr.permPc2 0xE19955FAACCF1E).written = "PERM.PC2 0xE19955FAACCF1E".toList ∧
    (Instr.rdsk 10).written = "RDSK 10".toList ∧ (Instr.pad [1, 2, 3]).written = "PAD [01 02 03]".toList ∧
    (Instr.pad []).written = "PAD []".toList := by decide +kernel
theorem test_written_response :
    (Instr.rdsk 0).writtenResponse (.word .ok 0x1B02EFFC7072) = "-> OK 0x1B02EFFC7072".toList ∧
    (Instr.keygen katKey).writtenResponse (.word .ok 0) = "-> OK".toList ∧
    (Instr.encrypt []).writtenResponse (.buffer .ok []) = "-> OK []".toList ∧
    (Instr.new [1, 2, 3]).writtenResponse (.buffer .keyLengthError []) = "-> KeyLengthError".toList := by decide +kernel

/-! ## WellFormed: an ill-formed term for each check, and a well-formed one -/

/-- Longer than the implementation's `MAX_BUF_LEN` (R9). -/
theorem test_wf_max_buf_len : (Instr.pad [1, 2, 3]).wellFormed { port := port1, maxBufLen := some 2 } = false ∧
    (Instr.pad [1, 2]).wellFormed { port := port1, maxBufLen := some 2 } = true := by decide
/-- Longer than the length field can say (R66): a field of no byte holds only the length 0. -/
theorem test_wf_length_field : (Instr.encrypt [1]).wellFormed (.unbounded { lenBytes := 0 }) = false ∧
    (Instr.encrypt []).wellFormed (.unbounded { lenBytes := 0 }) = true := by decide
/-- A format W record with buffer data, a format B record with word operands (R60). -/
theorem test_wf_one_format : Command.wellFormed ⟨0x02, 5, 0, [1]⟩ = false ∧ Command.wellFormed ⟨0x20, 1, 0, []⟩ = false ∧
    Command.wellFormed ⟨0x20, 0, 1, []⟩ = false ∧ Command.wellFormed ⟨0x02, 5, 0, []⟩ = true := by decide +kernel
/-- A surplus operand bit for every kind of slice (R64). -/
theorem test_wf_surplus : Command.wellFormed (.word 0x04 0x100000000 0) = false ∧ Command.wellFormed (.word 0x05 1 0) = false ∧
    Command.wellFormed (.word 0x06 0x10 0) = false ∧ Command.wellFormed (.word 0x15 0x100000000000000 0) = false ∧
    Command.wellFormed (.word 0x01 0 1) = false ∧ Command.wellFormed (.word 0x12 0x100000000 0) = false ∧
    Command.wellFormed (.word 0x13 0 1) = false ∧ Command.wellFormed (.word 0x04 0xFFFFFFFF 1) = true := by decide +kernel
/-- A code that is no command (R68). -/
theorem test_wf_code : Command.wellFormed (.word 0x07 0 0) = false ∧ Command.wellFormed (.buffer 0x25 []) = false := by
  decide +kernel

/-! ## The commands -/

theorem test_keygen : reply (.keygen katKey) State.reset = some (.word .ok 0) ∧
    (subkeysOf (exec (.keygen katKey) State.reset)).map (fun ks => ks[8]) = some 0xE0DBEBEDE781 := by decide +kernel
/-- 95 section 3.3: one key bit that lands in D. -/
theorem test_keygen_one_bit : (subkeysOf (exec (.keygen 0x0000000000000002) State.reset)).map
    (fun ks => (ks[0], ks[11], ks[15])) = some (0x000000000100, 0x000000000004, 0x000000000002) := by decide +kernel
theorem test_enc : reply (.enc 0x01A1D6D039776742) (loaded 0x7CA110454A1A6E57) = some (.word .ok 0x690F5B0D9A26939B) := by
  decide +kernel
theorem test_enc_kat : reply (.enc 0x0123456789ABCDEF) (loaded katKey) = some (.word .ok 0x85E813540F0AB405) ∧
    reply (.enc 0x0123456789ABCDEF) State.reset = some (.word .noKeyError 0) := by decide +kernel
theorem test_dec : reply (.dec 0x3FA40E8A984D4815) (loaded 0x0123456789ABCDEF) = some (.word .ok 0x4E6F772069732074) := by
  decide +kernel
theorem test_dec_no_key : reply (.dec 0x85E813540F0AB405) State.reset = some (.word .noKeyError 0) := by decide
theorem test_f : reply (.f 0x0A4CD995 0xCB3D8B0E17F5) State.reset = some (.word .ok 0x3147E709) := by decide +kernel
theorem test_f_one_bit : reply (.f 0x80000000 0) (loaded katKey) = some (.word .ok 0xD0585B9E) := by decide +kernel
/-- The two readings of "bit 0" (C3) would exchange this result with that of 0x820820820820. -/
theorem test_subst : reply (.subst 0x041041041041) State.reset = some (.word .ok 0x03DDEAD1) := by decide +kernel
theorem test_subst_last_box : reply (.subst 0x000000000001) State.reset = some (.word .ok 0xEFA72C41) := by decide +kernel
theorem test_rdsk : reply (.rdsk 9) (loaded katKey) = some (.word .ok 0xB1F347BA464F) := by decide +kernel
theorem test_rdsk_no_key : reply (.rdsk 0) State.reset = some (.word .noKeyError 0) := by decide
theorem test_permIp : reply (.permIp 0xA5A5A5A5A5A5A5A5) State.reset = some (.word .ok 0x0000FFFFFFFF0000) := by decide +kernel
theorem test_permFp : reply (.permFp 0x0123456789ABCDEF) State.reset = some (.word .ok 0xFF330FAA00330FAA) := by decide +kernel
theorem test_permE : reply (.permE 0x01234567) State.reset = some (.word .ok 0x802906A0AB0E) := by decide +kernel
theorem test_permP : reply (.permP 0x01234567) State.reset = some (.word .ok 0x80566C2C) := by decide +kernel
theorem test_permPc1 : reply (.permPc1 0x0123456789ABCDEF) State.reset = some (.word .ok 0xF0CCAA0AACCF00) := by decide +kernel
theorem test_permPc2 : reply (.permPc2 0x0123456789ABCD) State.reset = some (.word .ok 0x3080E8BB7549) := by decide +kernel
theorem test_pad : reply (.pad [1]) State.reset = some (.buffer .ok [1, 7, 7, 7, 7, 7, 7, 7]) := by decide +kernel
theorem test_pad_whole_block : reply (.pad [8, 8, 8, 8, 8, 8, 8, 8]) State.reset =
    some (.buffer .ok [8, 8, 8, 8, 8, 8, 8, 8, 8, 8, 8, 8, 8, 8, 8, 8]) := by decide +kernel
theorem test_unpad : reply (.unpad [1, 2, 3, 5, 5, 5, 5, 5]) State.reset = some (.buffer .ok [1, 2, 3]) := by decide +kernel
theorem test_unpad_errors : ∀ x ∈ [[9, 9, 9, 9, 9, 9, 9, 9, 9], [1, 2, 3, 4, 5, 6, 7, 8, 2, 3, 2, 3], [3, 1, 3, 3],
    [8, 8, 8, 8, 8, 8, 8], [0xFF, 0xFF]], reply (.unpad x) State.reset = some (.buffer .paddingError []) := by decide +kernel
theorem test_encrypt : reply (.encrypt [0x01, 0x23, 0x45, 0x67, 0x89, 0xAB, 0xCD, 0xEF, 0x11]) (loaded katKey) =
    some (.buffer .ok [0x85, 0xE8, 0x13, 0x54, 0x0F, 0x0A, 0xB4, 0x05, 0x8C, 0xED, 0xD3, 0x0E, 0x96, 0x9D, 0x9D, 0x51]) := by
  decide +kernel
theorem test_encrypt_no_key : reply (.encrypt []) State.reset = some (.buffer .noKeyError []) := by decide
theorem test_decrypt : reply (.decrypt [0x5C, 0xE0, 0x29, 0x31, 0x52, 0x02, 0x97, 0xD9]) (loaded katKey) =
    some (.buffer .ok [0x68, 0x65, 0x6C, 0x6C, 0x6F, 0, 0, 0]) := by decide +kernel
theorem test_decrypt_errors :
    reply (.decrypt [0x85, 0xE8, 0x13, 0x54, 0x0F, 0x0A, 0xB4, 0x05, 0]) (loaded katKey) =
      some (.buffer .blockLengthError []) ∧
    reply (.decrypt [0x18, 0x0F, 0x8B]) State.reset = some (.buffer .noKeyError []) := by decide +kernel
theorem test_new : (subkeysOf (exec (.new [0x01, 0x23, 0x45, 0x67, 0x89, 0xAB, 0xCD, 0xEF]) State.reset)).map
    (fun ks => ks[0]) = some 0x0B02679B49A5 := by decide +kernel
theorem test_new_nine_bytes : reply (.new [0x13, 0x34, 0x57, 0x79, 0x9B, 0xBC, 0xDF, 0xF1, 0]) (loaded katKey) =
      some (.buffer .keyLengthError []) ∧
    subkeysOf (exec (.new []) (loaded katKey)) = some (generateSubkeys katKey) := by decide +kernel

/-- 95 section 3.2. -/
theorem test_rotl28 : rotl28 0xF0CCAAF 1 = 0xE19955F ∧ rotl28 0xC332ABF 2 = 0x0CCAAFF ∧ rotl28 0x4000000 2 = 0x0000001 := by
  decide
/-- 95 section 4.1. -/
theorem test_sbox_one : sboxOut 0 0b011011 = 5 ∧ sboxOut 0 0b111110 = 0 ∧ sboxOut 0 0b011000 = 5 ∧ sboxOut 0 0b100001 = 15 := by
  decide +kernel

/-! ## The port and steps -/

/-- R68: the response of an illegal code of class 2, then of another class. -/
theorem test_step_illegal : lastReply (step (issue (.buffer 0x25 [1, 2, 3]) (loaded katKey))) =
      some (.buffer .illegalCommand []) ∧
    lastReply (step (issue (.word 0x16 0x0123456789ABCDEF 0) State.reset)) = some (.word .illegalCommand 0) := by decide +kernel
/-- R210. -/
theorem test_step_reset : subkeysOf (step { loaded katKey with pending := [.reset] }) = none := by decide
/-- The host's table words: every row decodes, and the step runs it. -/
theorem test_table_words : (commandCodes.all fun op => (decodeTableWord 8 op.toNat).isSome) = true ∧
    decodeTableWord 8 0x16 = none := by decide +kernel
theorem test_fetch_word : lastReply (step (State.reset.withFetchWord 8 0x20)) =
      some (.buffer .ok [8, 8, 8, 8, 8, 8, 8, 8]) ∧
    lastReply (step (State.reset.withFetchWord 8 0x05)) = some (.word .ok 0xEFA72C4D) := by decide +kernel
/-- 95 section 10, P5 steps 8 to 10: reset between two commands, run as a program from reset. -/
theorem test_boot_runs :
    lastReply (Host.Core.run Sys2Proof.core 3 (State.boot
      [.command (encode (.keygen katKey)), .reset, .command (encode (.dec 0x85E813540F0AB405))])) =
    some (.word .noKeyError 0) := by decide +kernel

/-! ## Witnesses: the hypotheses of each obligation that has any can be met, at boundary values where there is a range -/

theorem witness_PermuteSelectsDesPositions : 0 < ROM.E.entries.length ∧ 47 < ROM.E.entries.length := by decide
theorem witness_PermuteLaws : ROM.IP.bijective ∧
    ∀ i : Fin 64, ROM.FP.entries.getD (ROM.IP.entries.getD i 0 - 1) 0 = i.val + 1 := by
  constructor
  · unfold PermTable.bijective
    decide +kernel
  · decide +kernel
/-- PermPc1Command, KeyScheduleProperties: two keys that differ in every parity position only (95 section 3.3). -/
theorem witness_parity : (∀ j < 64, j % 8 ≠ 7 → katKey.getMsbD j = (0x123456799ABCDEF0 : Block).getMsbD j) ∧
    katKey ≠ 0x123456799ABCDEF0 := by decide +kernel
theorem witness_PermPc2Command : (∀ p < 57, p ∉ [0, 9, 18, 22, 25, 35, 38, 43, 54] →
      (0x00800000000000 : KeyPair).getMsbD (p - 1) = (0 : KeyPair).getMsbD (p - 1)) ∧ (0x00800000000000 : KeyPair) ≠ 0 := by
  decide +kernel
theorem witness_RotationOfKeyHalves : (1 = 1 ∨ 1 = 2) ∧ (2 = 1 ∨ (2 : Nat) = 2) := by decide
/-- Also BlockOperationRounds and KeyScheduleProperties: the first and the last round. -/
theorem witness_KeyScheduleRecurrence : 0 < 16 ∧ 15 < 16 := by decide
/-- The weak key of 95 section 3.3 whose halves are all zero and all one. -/
theorem witness_KeyScheduleProperties : (keyHalves 0x1F1F1F1F0E0E0E0E 0).1 = 0 ∧
    (keyHalves 0x1F1F1F1F0E0E0E0E 0).2 = BitVec.allOnes 28 := by decide +kernel
theorem witness_KeygenCommand : (loaded katKey).subkeys = some (generateSubkeys katKey) := rfl
/-- Also KeyValidFlag, NormalUseReturnsTheMessage and BytesAndWordsAgree. -/
theorem witness_NewCommand : ([] : List Byte).length ≠ 8 ∧ ([1, 2, 3, 4, 5, 6, 7] : List Byte).length ≠ 8 ∧
    ([1, 2, 3, 4, 5, 6, 7, 8] : List Byte).length = 8 ∧ ([1, 2, 3, 4, 5, 6, 7, 8, 9] : List Byte).length ≠ 8 := by decide
/-- A state without a key and one with a key: RdskCommand, EncCommand, DecCommand, EncryptCommand, DecryptCommand, KeyValidFlag,
and the premise inside `AnswersWord` and `AnswersBuffer` (EncAndDecUndoEachOther, BufferLaws, PseudoCommands). -/
theorem witness_key : State.reset.subkeys = none ∧ ∃ ks, (loaded katKey).subkeys = some ks := ⟨rfl, _, rfl⟩
theorem witness_SubstituteByGroups : ∀ c : Fin 8, c ≠ 0 → sboxGroup 0xFC0000000000 c = sboxGroup 0 c := by decide +kernel
theorem witness_RoundFunctionProperties : permute ROM.E 0xFFFFFFFF ^^^ 0 = permute ROM.E 0 ^^^ 0xFFFFFFFFFFFF := by
  decide +kernel
/-- UnpadCommand and StatusOfEveryCommand, at the two ends of the pad lengths. -/
theorem witness_EndsInPad_block : EndsInPad [8, 8, 8, 8, 8, 8, 8, 8] [] := ⟨8, by decide, by decide, rfl⟩
theorem witness_EndsInPad_byte : EndsInPad [1, 1] [1] := ⟨1, by decide, by decide, rfl⟩
theorem witness_UnpadCommand_error : ¬∃ y, EndsInPad [] y := by
  rintro ⟨y, n, h1, _, h⟩
  have := congrArg List.length h
  simp at this
  omega
theorem witness_PaddingLaws : unpadBytes [0x68, 0x65, 0x6C, 0x6C, 0x6F, 3, 3, 3] = some [0x68, 0x65, 0x6C, 0x6C, 0x6F] ∧
    ([0x68, 0x65, 0x6C, 0x6C, 0x6F, 3, 3, 3] : List Byte).length % 8 = 0 := by decide +kernel
/-- DecryptCommand, EncryptCommand and BufferLaws: lengths on both sides of a block. -/
theorem witness_buffers : ([] : List Byte).length % 8 = 0 ∧ ([0x18] : List Byte).length % 8 ≠ 0 ∧
    ([1, 2, 3, 4, 5, 6, 7] : List Byte).length % 8 ≠ 0 ∧ ([1, 2, 3, 4, 5, 6, 7, 8] : List Byte).length = 8 := by decide
theorem witness_TransformChunkByChunk : 0 < (([1] : List Byte).length + 7) / 8 ∧
    1 < (([1, 2, 3, 4, 5, 6, 7, 8, 9] : List Byte).length + 7) / 8 := by decide
/-- Also EveryCommandIsTotal. -/
theorem witness_ErrorsChangeNothing : ∃ s t c rest r, s.pending = .command c :: rest ∧ step s = .next t ∧
    t.responses = s.responses ++ [r] ∧ r.status ≠ .ok :=
  ⟨issue (.word 0x02 5 0) State.reset, _, .word 0x02 5 0, [], .word .noKeyError 0, rfl, rfl, rfl, by decide⟩
/-- One value for each premise of R192's causes; also IllegalCommandsAreRefused and KeyValidFlag. -/
theorem witness_StatusOfEveryCommand : (0x00 : Byte) ∉ commandCodes ∧ (0x25 : Byte) ∉ commandCodes ∧
    (0x22 : Byte) ∈ keyedCodes ∧ State.reset.keyValid = false ∧ (loaded katKey).keyValid = true ∧
    (0x24 : Byte) ∈ commandCodes ∧ (0x24 : Byte) ∉ keyedCodes ∧ (0x23 : Byte) ∈ keyedCodes ∧ (0x21 : Byte) ∉ keyedCodes := by
  decide +kernel
theorem witness_RunOfCommandsAnswersEach :
    (State.boot [.command (encode (.pad [])), .command (.word 0 0 0)]).pending =
    [encode (.pad []), .word 0 0 0].map .command := rfl
theorem witness_StepRunsTheDecodedCommand : (issue (encode (.rdsk 3)) State.reset).pending = [.command (encode (.rdsk 3))] ∧
    decode (encode (.rdsk 3)) = .ok (.rdsk 3) := ⟨rfl, by decide +kernel⟩
theorem witness_OnlyKeyLoadsWriteSubkeys : isStateless (.pad []) = true ∧
    ∃ t, exec (.keygen katKey) State.reset = .next t := ⟨rfl, _, rfl⟩
theorem witness_KeyValidFlag_reset : ∃ s t, step s = .next t ∧ s.keyValid = true ∧ t.keyValid = false :=
  ⟨{ loaded katKey with pending := [.reset] }, _, rfl, rfl, rfl⟩
theorem witness_KeyScheduleInvariantKept : (loaded katKey).keyScheduleInv ∧ ∃ t, step (loaded katKey) = .next t :=
  ⟨fun _ h => ⟨katKey, by injection h with h; exact h.symm⟩, _, rfl⟩
theorem witness_ErrorsCarryNoDataKept :
    State.errorsCarryNoData { State.reset with responses := [.word .noKeyError 0, .word .ok 7] } := by
  unfold State.errorsCarryNoData
  decide
theorem witness_ResponseDependsOnSubkeysAlone :
    State.reset.subkeys = State.subkeys { State.reset with responses := [.word .noKeyError 0] } ∧
    State.reset ≠ { State.reset with responses := [.word .noKeyError 0] } := ⟨rfl, by decide⟩
theorem witness_ResetClearsTheKey : State.pending { loaded katKey with pending := [.reset] } = [.reset] := rfl
theorem witness_DecodeOfEncode : (Instr.pad (List.replicate 255 0)).wellFormed (.unbounded port1) = true ∧
    (Instr.pad (List.replicate 256 0)).wellFormed (.unbounded port1) = false := by decide +kernel
theorem witness_EncodeOfDecode : Command.wellFormed (.word 0x06 15 0) = true ∧ decode (.word 0x06 15 0) = .ok (.rdsk 15) := by
  decide +kernel
theorem witness_SurplusOperandBitsIgnored : (0x06 : Byte) ∈ commandCodes ∧ operandSlices 0x06 = (4, 0, false) ∧
    (0x1F : Block).toNat % 2 ^ 4 = (0x0F : Block).toNat % 2 ^ 4 ∧
    (1 : Subkey).toNat % 2 ^ 0 = (0 : Subkey).toNat % 2 ^ 0 := by decide +kernel
theorem witness_PackedLayouts : formatOf (Command.op (.word 0x02 0 0)) = .word ∧
    formatOf (Command.op (.buffer 0x20 [])) = .buffer := by decide
theorem witness_PseudoCommands : Instr.transform true [] = some (.decrypt []) ∧
    Instr.transform true [1] = none ∧ Instr.transform false [1] = some (.encrypt [1]) := by decide

end Sys2Proof.Tests
end

section
/-! PROOFS. Every command answers once, in its own format (R11, R60, R65). -/

namespace Sys2Proof

/-- The format of a command: `B` exactly when it has a buffer operand. `formatOf_encode` says that this is the format that
its command code stands for (R60, R61). -/
def Instr.format (i : Instr) : Format :=
  match i.buffer? with
  | none => .word
  | some _ => .buffer

theorem formatOf_encode (i : Instr) : formatOf (encode i).op = i.format := by
  cases i <;> simp only [encode, Command.word, Command.buffer] <;> rfl

/-- The format of a record is the format of the command it decodes to. -/
theorem formatOf_of_decode {c : Command} {i : Instr} (h : decode c = .ok i) : formatOf c.op = i.format := by
  rw [← encode_op_of_decode h, formatOf_encode]

end Sys2Proof

namespace Sys2Proof.Machine

/-- The outcome `o` of a command run at `s` is a next state that leaves the port as it was and has one more response, in the
format `fmt`. What became of the SubkeySet is left open. -/
def RespondsIn (fmt : Format) (s : State) (o : Outcome) : Prop :=
  ∃ t r, o = .next t ∧ t.pending = s.pending ∧ t.responses = s.responses ++ [r] ∧ r.format = fmt

/-! The rules of the shared operations. -/

theorem completeWord_respondsIn {n : Nat} (v : BitVec n) (s : State) : RespondsIn .word s (completeWord v s) :=
  ⟨_, _, completeWord_eq v s, rfl, rfl, rfl⟩

theorem completeBuffer_respondsIn (d : List Byte) (s : State) : RespondsIn .buffer s (completeBuffer d s) :=
  ⟨_, _, completeBuffer_eq d s, rfl, rfl, rfl⟩

theorem raise_respondsIn (fmt : Format) (st : Status) (s : State) : RespondsIn fmt s (raise fmt st s) :=
  let ⟨r, h, _, hfmt, _⟩ := raise_cases fmt st s
  ⟨_, r, h, rfl, rfl, hfmt⟩

/-- The key check keeps the format, whether it raises `NoKeyError` or lets the command run. -/
theorem withKey_respondsIn {fmt : Format} {run : SubkeySet → State → Outcome} {s : State}
    (h : ∀ ks, RespondsIn fmt s (run ks s)) : RespondsIn fmt s (withKey fmt run s) := by
  rcases withKey_cases fmt run s with ⟨_, hw⟩ | ⟨ks, _, hw⟩
  · exact hw ▸ raise_respondsIn fmt .noKeyError s
  · exact hw ▸ h ks

/-- A key load touches neither the port nor the responses, so a command may load before it answers. -/
theorem RespondsIn.of_loadKey {fmt : Format} {s : State} {ks : SubkeySet} {o : Outcome}
    (h : RespondsIn fmt (s.loadKey ks) o) : RespondsIn fmt s o := h

/-! The commands whose outcome depends on their buffer. -/

theorem execUnpad_respondsIn (d : List Byte) (s : State) : RespondsIn .buffer s (execUnpad d s) := by
  unfold execUnpad
  split
  · exact raise_respondsIn _ _ _
  · exact completeBuffer_respondsIn _ _

theorem execDecrypt_respondsIn (d : List Byte) (s : State) : RespondsIn .buffer s (execDecrypt d s) := by
  refine withKey_respondsIn fun ks => ?_
  split
  · exact raise_respondsIn _ _ _
  · exact completeBuffer_respondsIn _ _

theorem execNew_respondsIn (d : List Byte) (s : State) : RespondsIn .buffer s (execNew d s) := by
  unfold execNew
  split
  · exact raise_respondsIn _ _ _
  · exact (completeBuffer_respondsIn _ _).of_loadKey

/-- Every command, in every state, answers once in its own format. -/
theorem exec_respondsIn (i : Instr) (s : State) : RespondsIn i.format s (exec i s) := by
  cases i with
  | keygen key => exact (completeWord_respondsIn _ _).of_loadKey
  | enc x => exact withKey_respondsIn fun _ => completeWord_respondsIn _ _
  | dec x => exact withKey_respondsIn fun _ => completeWord_respondsIn _ _
  | f r k => exact completeWord_respondsIn _ _
  | subst x => exact completeWord_respondsIn _ _
  | rdsk k => exact withKey_respondsIn fun _ => completeWord_respondsIn _ _
  | permIp x => exact completeWord_respondsIn _ _
  | permFp x => exact completeWord_respondsIn _ _
  | permE x => exact completeWord_respondsIn _ _
  | permP x => exact completeWord_respondsIn _ _
  | permPc1 x => exact completeWord_respondsIn _ _
  | permPc2 x => exact completeWord_respondsIn _ _
  | pad d => exact completeBuffer_respondsIn _ _
  | unpad d => exact execUnpad_respondsIn d s
  | encrypt d => exact withKey_respondsIn fun _ => completeBuffer_respondsIn _ _
  | decrypt d => exact execDecrypt_respondsIn d s
  | new d => exact execNew_respondsIn d s

/-! What a step does with a command record: a legal one (R73), an illegal one (R68). -/

theorem step_of_decode_ok {s : State} {c : Command} {rest : List PortEvent} {i : Instr}
    (hp : s.pending = .command c :: rest) (hd : decode c = .ok i) : step s = exec i (s.take rest) := by
  simp [step, hp, hd]

theorem step_of_decode_error {s : State} {c : Command} {rest : List PortEvent} {e : DecodeError}
    (hp : s.pending = .command c :: rest) (hd : decode c = .error e) :
    step s = raise (formatOf c.op) .illegalCommand (s.take rest) := by
  simp [step, hp, hd, rejectCommand]

/-- A step on a command record takes that record from the port and answers once, in the record's format. -/
theorem step_command_respondsIn {s : State} {c : Command} {rest : List PortEvent}
    (hp : s.pending = .command c :: rest) : RespondsIn (formatOf c.op) (s.take rest) (step s) := by
  cases hd : decode c with
  | ok i =>
    rw [step_of_decode_ok hp hd, formatOf_of_decode hd]
    exact exec_respondsIn i _
  | error e =>
    rw [step_of_decode_error hp hd]
    exact raise_respondsIn _ _ _

/-- Every step ends in a next state: an idle step and a reset do so themselves, a command by answering. -/
theorem step_total (s : State) : ∃ t, step s = .next t := by
  rcases step_cases s with ⟨_, h⟩ | ⟨rest, _, h⟩ | ⟨c, rest, i, hp, _, _⟩ | ⟨c, rest, e, _, _, h⟩
  · exact ⟨_, h⟩
  · exact ⟨_, h⟩
  · obtain ⟨t, _, h, _⟩ := step_command_respondsIn hp
    exact ⟨t, h⟩
  · exact ⟨_, h⟩

/-- Settles O39: totality is `step_total`, the command clause is `step_command_respondsIn`. -/
theorem everyCommandIsTotal : Obligations.EveryCommandIsTotal :=
  ⟨step_total, fun _ _ _ hp => step_command_respondsIn hp⟩

end Sys2Proof.Machine
end

section
/-! PROOFS. What a command does to `SUBKEY` and `KEY_VALID`, and what its response depends on (R21, R22, R27, R31). -/

namespace Sys2Proof.Machine

/-- The command is a successful key load of `key` (R104, R106): a KEYGEN, or a NEW of exactly 8 bytes. -/
def IsKeyLoad (i : Instr) (key : Block) : Prop :=
  i = .keygen key ∨ ∃ d, i = .new d ∧ d.length = 8 ∧ key = be64 d

/-- The operation gives one and the same response in every state and changes nothing else. -/
def RespondsUniformly (run : State → Outcome) : Prop :=
  ∃ r, ∀ s, run s = .next (s.respond r)

/-! The rules of the shared operations. -/

theorem completeWord_respondsUniformly {n : Nat} (v : BitVec n) : RespondsUniformly (completeWord v) :=
  ⟨_, completeWord_eq v⟩

theorem completeBuffer_respondsUniformly (d : List Byte) : RespondsUniformly (completeBuffer d) :=
  ⟨_, completeBuffer_eq d⟩

theorem raise_respondsUniformly (fmt : Format) (st : Status) : RespondsUniformly (raise fmt st) :=
  ⟨errorResponse fmt st, fun _ => rfl⟩

/-- The key check reads `SUBKEY` and `KEY_VALID` and nothing else: once they are fixed to `k`, a command that is uniform in
everything but its snapshot of the subkeys gives one response. -/
theorem withKey_response_of_subkeys {fmt : Format} {run : SubkeySet → State → Outcome}
    (h : ∀ ks, RespondsUniformly (run ks)) (k : Option SubkeySet) :
    ∃ r, ∀ s : State, s.subkeys = k → withKey fmt run s = .next (s.respond r) := by
  cases k with
  | none =>
    obtain ⟨r, hr⟩ := raise_respondsUniformly fmt .noKeyError
    exact ⟨r, fun s hs => (withKey_none fmt run hs).trans (hr s)⟩
  | some ks =>
    obtain ⟨r, hr⟩ := h ks
    exact ⟨r, fun s hs => (withKey_some fmt run hs).trans (hr s)⟩

/-! The commands, by what they read and write. -/

theorem execUnpad_respondsUniformly (d : List Byte) : RespondsUniformly (execUnpad d) := by
  unfold execUnpad
  cases unpadBytes d with
  | none => exact raise_respondsUniformly _ _
  | some y => exact completeBuffer_respondsUniformly y

/-- The stateless commands of R21 answer alike in all states. -/
theorem exec_respondsUniformly {i : Instr} (h : isStateless i = true) : RespondsUniformly (exec i) := by
  cases i with
  | f | subst | permIp | permFp | permE | permP | permPc1 | permPc2 => exact completeWord_respondsUniformly _
  | pad => exact completeBuffer_respondsUniformly _
  | unpad d => exact execUnpad_respondsUniformly d
  | keygen | enc | dec | rdsk | encrypt | decrypt | new => cases h

theorem execDecrypt_response_of_subkeys (d : List Byte) (k : Option SubkeySet) :
    ∃ r, ∀ s : State, s.subkeys = k → execDecrypt d s = .next (s.respond r) := by
  refine withKey_response_of_subkeys (fun ks => ?_) k
  split
  · exact raise_respondsUniformly _ _
  · exact completeBuffer_respondsUniformly _

theorem execNew_respondsUniformly {d : List Byte} (h : d.length ≠ 8) : RespondsUniformly (execNew d) :=
  ⟨_, fun _ => if_pos h⟩

theorem keygen_loads (key : Block) (s : State) : Loads (.keygen key) s (generateSubkeys key) (.word .ok 0) := rfl

theorem new_loads {d : List Byte} (h : d.length = 8) (s : State) :
    Loads (.new d) s (generateSubkeys (be64 d)) (.buffer .ok []) :=
  if_neg (not_not.mpr h)

/-- Everything a command can do, with `SUBKEY` and `KEY_VALID` fixed to `k` and the rest of the state open: one response and
no other change, or a key load, which is the same in all states. -/
theorem exec_answers_or_loads (i : Instr) (k : Option SubkeySet) :
    (∃ r, ∀ s : State, s.subkeys = k → Answers i s r) ∨
      ∃ key r, IsKeyLoad i key ∧ ∀ s, Loads i s (generateSubkeys key) r := by
  have uniform (h : RespondsUniformly (exec i)) : ∃ r, ∀ s : State, s.subkeys = k → Answers i s r :=
    let ⟨r, hr⟩ := h
    ⟨r, fun s _ => hr s⟩
  cases i with
  | f | subst | permIp | permFp | permE | permP | permPc1 | permPc2 | pad | unpad =>
    exact .inl (uniform (exec_respondsUniformly rfl))
  | enc | dec | rdsk => exact .inl (withKey_response_of_subkeys (fun _ => completeWord_respondsUniformly _) k)
  | encrypt => exact .inl (withKey_response_of_subkeys (fun _ => completeBuffer_respondsUniformly _) k)
  | decrypt d => exact .inl (execDecrypt_response_of_subkeys d k)
  | keygen key => exact .inr ⟨key, _, .inl rfl, keygen_loads key⟩
  | new d =>
    by_cases hd : d.length = 8
    · exact .inr ⟨be64 d, _, .inr ⟨d, rfl, hd, rfl⟩, new_loads hd⟩
    · exact .inl (uniform (execNew_respondsUniformly hd))

/-- A command that starts with the key check answers `NoKeyError` where there is no SubkeySet (R194). -/
theorem answers_noKeyError {i : Instr} (fmt : Format) {run : SubkeySet → State → Outcome} {s : State}
    (hi : exec i = withKey fmt run) (h : s.subkeys = none) : Answers i s (errorResponse fmt .noKeyError) :=
  (congrFun hi s).trans (withKey_none fmt run h)

/-! What becomes of `SUBKEY`: after an answer, after a key load, after any command, after any step. -/

theorem Answers.subkeys {i : Instr} {s t : State} {r : Response} (h : Answers i s r) (ht : exec i s = .next t) :
    t.subkeys = s.subkeys := by
  cases ht.symm.trans h
  rfl

theorem Loads.subkeys {i : Instr} {s t : State} {ks : SubkeySet} {r : Response} (h : Loads i s ks r)
    (ht : exec i s = .next t) : t.subkeys = some ks := by
  cases ht.symm.trans h
  rfl

theorem exec_subkeys {i : Instr} {s t : State} (h : exec i s = .next t) :
    t.subkeys = s.subkeys ∨ ∃ key, t.subkeys = some (generateSubkeys key) ∧ IsKeyLoad i key := by
  rcases exec_answers_or_loads i s.subkeys with ⟨_, ha⟩ | ⟨key, _, hi, hl⟩
  · exact .inl ((ha s rfl).subkeys h)
  · exact .inr ⟨key, (hl s).subkeys h, hi⟩

/-- The step that takes a reset from the port (R210). -/
theorem step_of_reset {s : State} {rest : List PortEvent} (hp : s.pending = .reset :: rest) :
    step s = .next { s with subkeys := none, pending := rest } := by
  simp [step, hp, takeReset_eq, State.take]

/-- Only a command's key load and a reset change `SUBKEY`. -/
theorem step_subkeys {s t : State} (h : step s = .next t) :
    t.subkeys = s.subkeys ∨ (∃ key, t.subkeys = some (generateSubkeys key)) ∨
      (t.subkeys = none ∧ ∃ rest, s.pending = .reset :: rest) := by
  rcases step_cases s with ⟨_, hs⟩ | ⟨rest, hp, hs⟩ | ⟨c, rest, i, _, _, hs⟩ | ⟨c, rest, e, _, _, hs⟩
  · cases h.symm.trans hs
    exact .inl rfl
  · cases h.symm.trans hs
    exact .inr (.inr ⟨rfl, rest, hp⟩)
  · rcases exec_subkeys (hs.symm.trans h) with hk | ⟨key, hk, _⟩
    · exact .inl hk
    · exact .inr (.inl ⟨key, hk⟩)
  · cases h.symm.trans hs
    exact .inl rfl

/-! `KEY_VALID` is a function of `SUBKEY`. -/

theorem keyValid_eq_false_iff (s : State) : s.keyValid = false ↔ s.subkeys = none := by
  simp [State.keyValid]

theorem keyValid_congr {s t : State} (h : t.subkeys = s.subkeys) : t.keyValid = s.keyValid :=
  congrArg Option.isSome h

theorem keyValid_of_subkeys {t : State} {ks : SubkeySet} (h : t.subkeys = some ks) : t.keyValid = true :=
  (keyValid_iff t).mpr ⟨ks, h⟩

theorem exec_keeps_keyValid {i : Instr} {s t : State} (h : exec i s = .next t) (hv : s.keyValid = true) :
    t.keyValid = true := by
  rcases exec_subkeys h with hk | ⟨key, hk, _⟩
  · exact (keyValid_congr hk).trans hv
  · exact keyValid_of_subkeys hk

theorem reset_of_step_clears_keyValid {s t : State} (h : step s = .next t) (hv : s.keyValid = true)
    (hc : t.keyValid = false) : ∃ rest, s.pending = .reset :: rest := by
  rcases step_subkeys h with hk | ⟨key, hk⟩ | ⟨_, hp⟩
  · cases hc.symm.trans ((keyValid_congr hk).trans hv)
  · cases hc.symm.trans (keyValid_of_subkeys hk)
  · exact hp

/-- Settles O45: a step keeps `SUBKEY`, or loads a key schedule, or leaves no SubkeySet. -/
theorem keyScheduleInvariantKept : Obligations.KeyScheduleInvariantKept := by
  intro s t hinv h ks hks
  rcases step_subkeys h with hk | ⟨key, hk⟩ | ⟨hk, _⟩
  · exact hinv ks (hk.symm.trans hks)
  · exact ⟨key, Option.some.inj (hks.symm.trans hk)⟩
  · cases hk.symm.trans hks

/-- Settles O43: the writes are `exec_subkeys`, the stateless commands `exec_respondsUniformly`. -/
theorem onlyKeyLoadsWriteSubkeys : Obligations.OnlyKeyLoadsWriteSubkeys :=
  ⟨fun _ _ _ h => exec_subkeys h, fun _ h => exec_respondsUniformly h⟩

/-- Settles O44: a key load leaves a SubkeySet, only a reset takes one away, and the key check raises without one. -/
theorem keyValidFlag : Obligations.KeyValidFlag := by
  refine ⟨keyValid_iff, fun s rest hp => ⟨_, step_of_reset hp, rfl⟩, fun s t key h => ?_, fun s t d hd h => ?_,
    fun _ _ _ => exec_keeps_keyValid, fun _ _ => reset_of_step_clears_keyValid, fun s x i d hv => ?_⟩
  · exact keyValid_of_subkeys ((keygen_loads key s).subkeys h)
  · exact keyValid_of_subkeys ((new_loads hd s).subkeys h)
  · have hn : s.subkeys = none := (keyValid_eq_false_iff s).mp hv
    exact ⟨answers_noKeyError .word rfl hn, answers_noKeyError .word rfl hn, answers_noKeyError .word rfl hn,
      answers_noKeyError .buffer rfl hn, answers_noKeyError .buffer rfl hn⟩

/-- Settles O48: `exec_answers_or_loads` names the response and the load before it names a state. -/
theorem responseDependsOnSubkeysAlone : Obligations.ResponseDependsOnSubkeysAlone := by
  refine ⟨fun i s s' heq => ?_, fun _ h => exec_respondsUniformly h⟩
  rcases exec_answers_or_loads i s.subkeys with ⟨r, ha⟩ | ⟨key, r, _, hl⟩
  · refine ⟨s.subkeys, r, ha s rfl, ?_⟩
    rw [heq]
    exact ha s' heq.symm
  · exact ⟨some (generateSubkeys key), r, hl s, hl s'⟩

/-- Settles O47: the reset state holds no SubkeySet and no response. -/
theorem resetMeetsTheInvariants : Obligations.ResetMeetsTheInvariants := by
  refine ⟨fun ks hks => ?_, fun r hr => ?_, fun r hr => ?_⟩
  · cases reset_subkeys.symm.trans hks
  · cases reset_responses ▸ hr
  · cases reset_responses ▸ hr

end Sys2Proof.Machine
end

section
/-! PROOFS. The byte order of words (R40, R42). -/

namespace Sys2Proof

theorem beNat_lt (l : List Byte) : beNat l < 256 ^ l.length := by
  induction l with
  | nil => exact Nat.one_pos
  | cons x l ih =>
    rw [beNat_cons, List.length_cons, Nat.pow_succ']
    calc
      x.toNat * 256 ^ l.length + beNat l < (x.toNat + 1) * 256 ^ l.length := by rw [Nat.succ_mul]; omega
      _ ≤ 256 * 256 ^ l.length := Nat.mul_le_mul_right _ x.isLt

/-- What a field of `k` bytes cannot hold is not written. -/
theorem beBytes_mul_add (k x v : Nat) : beBytes k (x * 256 ^ k + v) = beBytes k v := by
  refine List.map_congr_left fun j hj => BitVec.eq_of_toNat_eq ?_
  obtain ⟨m, rfl⟩ : ∃ m, k = m + 1 + j := ⟨k - 1 - j, by have := List.mem_range.mp hj; omega⟩
  have hsplit : x * 256 ^ (m + 1 + j) = 256 ^ m * (256 * (x * 256 ^ j)) := by ring
  rw [show m + 1 + j - 1 - j = m by omega, hsplit, Nat.mul_add_div (by positivity)]
  simp

/-- Writing back a number read gives its bytes. -/
theorem beBytes_beNat (l : List Byte) : beBytes l.length (beNat l) = l := by
  induction l with
  | nil => rfl
  | cons x l ih =>
    have hdiv : (x.toNat * 256 ^ l.length + beNat l) / 256 ^ l.length = x.toNat := by
      rw [Nat.mul_comm, Nat.mul_add_div (by positivity), Nat.div_eq_of_lt (beNat_lt l), Nat.add_zero]
    rw [List.length_cons, beBytes_succ, beNat_cons, beBytes_mul_add, hdiv, ih, BitVec.ofNat_toNat, BitVec.setWidth_eq]

end Sys2Proof

namespace Sys2Proof.Machine

theorem bytes64_eq_beBytes (w : Block) : bytes64 w = beBytes 8 w.toNat := by
  simp [bytes64, beBytes, BitVec.extractLsb', Nat.shiftRight_eq_div_pow, List.range_succ]

theorem be64_toNat {b : List Byte} (h : b.length = 8) : (be64 b).toNat = beNat b :=
  Nat.mod_eq_of_lt ((beNat_lt b).trans_eq (by rw [h]; rfl))

theorem be64_bytes64 (w : Block) : be64 (bytes64 w) = w := by
  refine BitVec.eq_of_toNat_eq ?_
  rw [be64_toNat (bytes64_length w), bytes64_eq_beBytes, beNat_beBytes]
  exact Nat.mod_eq_of_lt w.isLt

theorem bytes64_be64 {b : List Byte} (h : b.length = 8) : bytes64 (be64 b) = b := by
  rw [bytes64_eq_beBytes, be64_toNat h, ← h, beBytes_beNat]

/-- Eight bytes as the weighted sum of R40. -/
theorem beNat_eight {b : List Byte} (h : b.length = 8) :
    beNat b = (b.getD 0 0).toNat * 2 ^ 56 + (b.getD 1 0).toNat * 2 ^ 48 + (b.getD 2 0).toNat * 2 ^ 40 +
      (b.getD 3 0).toNat * 2 ^ 32 + (b.getD 4 0).toNat * 2 ^ 24 + (b.getD 5 0).toNat * 2 ^ 16 +
      (b.getD 6 0).toNat * 2 ^ 8 + (b.getD 7 0).toNat := by
  match b, h with
  | [b0, b1, b2, b3, b4, b5, b6, b7], _ =>
    simp only [beNat, List.foldl_cons, List.foldl_nil, List.getD_cons_zero, List.getD_cons_succ]
    ring

/-- Byte `j` of a word, counted from the most significant. -/
theorem bytes64_getD (w : Block) (j : Fin 8) : (bytes64 w).getD j 0 = w.extractLsb' (56 - 8 * j.val) 8 := by
  fin_cases j <;> rfl

/-- R42: DES position `p + 1` of a word. -/
theorem getMsbD_eq_bit_of_bytes64 (w : Block) {p : Nat} (h : p < 64) :
    w.getMsbD p = ((bytes64 w).getD (p / 8) 0).getLsbD (7 - p % 8) := by
  have hbyte : (bytes64 w).getD (p / 8) 0 = w.extractLsb' (56 - 8 * (p / 8)) 8 := bytes64_getD w ⟨p / 8, by omega⟩
  have hbit : 56 - 8 * (p / 8) + (7 - p % 8) = 64 - 1 - p := by omega
  have hlt : 7 - p % 8 < 8 := by omega
  rw [hbyte, BitVec.getLsbD_extractLsb', hbit, BitVec.getMsbD_eq_getLsbD]
  simp [h, hlt]

/-- Settles O31: `bytes64` writes a field of eight bytes (`bytes64_eq_beBytes`), and a field reads back in both directions. -/
theorem bytesAndWordsAgree : Obligations.BytesAndWordsAgree :=
  ⟨be64_bytes64, fun _ h => ⟨bytes64_be64 h, (be64_toNat h).trans (beNat_eight h)⟩,
    fun w => ⟨bytes64_length w, fun _ => getMsbD_eq_bit_of_bytes64 w⟩⟩

end Sys2Proof.Machine
end

section
/-! PROOFS. A command issued a second time (R49). -/

namespace Sys2Proof.Machine

/-- Loading the SubkeySet that is already held changes nothing but the responses. -/
theorem Loads.answers {i : Instr} {s : State} {ks : SubkeySet} {r : Response} (h : Loads i s ks r)
    (hs : s.subkeys = some ks) : Answers i s r := by
  unfold Answers
  rw [hs]
  exact h

/-- Settles O49: an answer leaves `SUBKEY` and `KEY_VALID`, which are all a command reads, as they were, and a key load repeats
the load that was just made. -/
theorem commandsAreIdempotent : Obligations.CommandsAreIdempotent := by
  intro i s
  rcases exec_answers_or_loads i s.subkeys with ⟨r, ha⟩ | ⟨key, r, _, hl⟩
  · exact ⟨_, r, ha s rfl, rfl, ha _ rfl⟩
  · exact ⟨_, r, hl s, rfl, (hl _).answers rfl⟩

end Sys2Proof.Machine
end

section
/-! PROOFS. The response a step adds, and the command it runs (R65, R73, R196). -/

namespace Sys2Proof.Machine

/-- Everything a step can do to the responses: it leaves them, or adds one, which is `OK` or carries no data. -/
theorem step_responses {s t : State} (h : step s = .next t) :
    t.responses = s.responses ∨
      ∃ r, t.responses = s.responses ++ [r] ∧ (r.status = .ok ∨ r.noData = true) := by
  rcases step_cases s with ⟨_, hs⟩ | ⟨rest, _, hs⟩ | ⟨c, rest, i, _, _, hs⟩ | ⟨c, rest, e, _, _, hs⟩
  · cases h.symm.trans hs
    exact .inl rfl
  · cases h.symm.trans hs
    exact .inl rfl
  · obtain ⟨r, ⟨hx, hr⟩ | ⟨key, hx, hr⟩⟩ := exec_cases i (s.take rest)
    · cases h.symm.trans (hs.trans hx)
      exact .inr ⟨r, rfl, hr⟩
    · cases h.symm.trans (hs.trans hx)
      exact .inr ⟨r, rfl, .inl hr⟩
  · cases h.symm.trans hs
    exact .inr ⟨_, rfl, .inr (errorResponse_noData _ _)⟩

/-- Settles O46: the one response that a step can add is `OK` or carries no data. -/
theorem errorsCarryNoDataKept : Obligations.ErrorsCarryNoDataKept := by
  intro s t hinv h r hr herr
  rcases step_responses h with heq | ⟨r', heq, hnew⟩
  · exact hinv r (heq ▸ hr) herr
  · rcases List.mem_append.mp (heq ▸ hr) with hold | hlast
    · exact hinv r hold herr
    · cases List.mem_singleton.mp hlast
      exact hnew.resolve_left herr

/-- Settles O41: `step_of_decode_ok`, with the port's update written out. -/
theorem stepRunsTheDecodedCommand : Obligations.StepRunsTheDecodedCommand :=
  fun _ _ _ _ hp hd => step_of_decode_ok hp hd

end Sys2Proof.Machine
end

section
/-! PROOFS. The decoder on all 256 codes (R61, R64, R68), and the exact record of a command (R60, R64). -/

namespace Sys2Proof

open Machine

theorem encode_op_mem (i : Instr) : (encode i).op ∈ commandCodes := by
  cases i <;> simp only [encode, Command.word, Command.buffer] <;> decide

/-- Everything decoding can do: a command, or a refusal of a code outside the seventeen that names it. -/
theorem decode_cases (c : Command) :
    (∃ i, decode c = .ok i) ∨ (c.op ∉ commandCodes ∧ decode c = .error (.illegalCommand c.op)) := by
  unfold decode
  split
  case h_18 => exact .inr ⟨by simp_all [commandCodes], rfl⟩
  all_goals exact .inl ⟨_, rfl⟩

theorem decode_ok_iff (c : Command) : (∃ i, decode c = .ok i) ↔ c.op ∈ commandCodes :=
  ⟨fun ⟨i, h⟩ => encode_op_of_decode h ▸ encode_op_mem i, fun h => (decode_cases c).resolve_right fun hx => hx.1 h⟩

theorem decode_of_not_mem {c : Command} (h : c.op ∉ commandCodes) : decode c = .error (.illegalCommand c.op) :=
  ((decode_cases c).resolve_left (mt (decode_ok_iff c).mp h)).2

/-- The format of R60 by the code's high hexadecimal digit. -/
theorem formatOf_eq (op : Byte) : formatOf op = if op.toNat / 16 = 2 then .buffer else .word := by
  have hdigit : op.extractLsb' 4 4 = 2#4 ↔ op.toNat / 16 = 2 := by
    rw [← BitVec.toNat_inj, BitVec.extractLsb'_toNat, Nat.shiftRight_eq_div_pow]
    have := op.isLt
    simp
    omega
  simp only [formatOf, hdigit]

/-- Settles O42: a code outside the seventeen does not decode (`decode_ok_iff`), and such a step is `rejectCommand`. -/
theorem illegalCommandsAreRefused : Obligations.IllegalCommandsAreRefused := by
  refine ⟨fun op a b d h => decode_of_not_mem h, fun op a b d h => (decode_ok_iff _).mpr h, by decide +kernel,
    fun s c rest hp hop => ?_⟩
  rw [step_of_decode_error hp (decode_of_not_mem hop), formatOf_eq]
  split <;> rfl

/-- The slice `x[n-1:0]` of an operand field, zero-extended back to the field's width. -/
def lowBits {w : Nat} (n : Nat) (x : BitVec w) : BitVec w :=
  BitVec.ofNat w (x.toNat % 2 ^ n)

theorem lowBits_zero {w : Nat} (x : BitVec w) : lowBits 0 x = 0 := by
  simp [lowBits, Nat.mod_one]

theorem lowBits_width {w : Nat} (x : BitVec w) : lowBits w x = x := by
  simp [lowBits]

theorem lowBits_eq_setWidth (n : Nat) {w : Nat} (x : BitVec w) : lowBits n x = (x.extractLsb' 0 n).setWidth w :=
  BitVec.eq_of_toNat_eq (by simp [lowBits])

theorem lowBits_of_surplus_zero {n m w : Nat} {x : BitVec w} (hw : w = n + m) (h : x.extractLsb' n m = 0) :
    lowBits n x = x := by
  have hdiv : x.toNat / 2 ^ n < 2 ^ m := Nat.div_lt_of_lt_mul (by rw [← Nat.pow_add, ← hw]; exact x.isLt)
  have hzero := congrArg BitVec.toNat h
  rw [BitVec.extractLsb'_toNat, Nat.shiftRight_eq_div_pow, Nat.mod_eq_of_lt hdiv] at hzero
  have hlt : x.toNat < 2 ^ n := by simpa using hzero
  rw [lowBits, Nat.mod_eq_of_lt hlt, BitVec.ofNat_toNat, BitVec.setWidth_eq]

/-- The record in the exact form of R60 and R64 with the same code and operands: surplus bits zero, unused fields empty. -/
def Command.exact (c : Command) : Command where
  op := c.op
  a := lowBits (operandSlices c.op).1 c.a
  b := lowBits (operandSlices c.op).2.1 c.b
  data := if (operandSlices c.op).2.2 then c.data else []

theorem exact_of_word {c : Command} {n m : Nat} {a : Block} {b : Subkey} (h : operandSlices c.op = (n, m, false))
    (ha : lowBits n c.a = a) (hb : lowBits m c.b = b) : c.exact = .word c.op a b := by
  simp [Command.exact, Command.word, h, ha, hb]

theorem exact_of_buffer {c : Command} (h : operandSlices c.op = (0, 0, true)) : c.exact = .buffer c.op c.data := by
  simp [Command.exact, Command.buffer, h, lowBits_zero]

/-- The seventeen codes by their operands (R61): a block, a half, F's half and subkey, SUBST's subkey, RDSK's index, PC-2's
key pair, a buffer. -/
theorem commandCodes_cases {op : Byte} (h : op ∈ commandCodes) :
    (op = 0x01 ∨ op = 0x02 ∨ op = 0x03 ∨ op = 0x10 ∨ op = 0x11 ∨ op = 0x14) ∨ (op = 0x12 ∨ op = 0x13) ∨
    op = 0x04 ∨ op = 0x05 ∨ op = 0x06 ∨ op = 0x15 ∨
    (op = 0x20 ∨ op = 0x21 ∨ op = 0x22 ∨ op = 0x23 ∨ op = 0x24) := by
  revert op
  decide

/-- The encoder writes the operands that the decoder read, and nothing else of the record. -/
theorem encode_eq_exact {c : Command} {i : Instr} (h : decode c = .ok i) : encode i = c.exact := by
  obtain ⟨op, a, b, d⟩ := c
  symm
  rcases commandCodes_cases ((decode_ok_iff _).mp ⟨i, h⟩) with hblock | hhalf | rfl | rfl | rfl | rfl | hbuffer
  · rcases hblock with rfl | rfl | rfl | rfl | rfl | rfl <;> cases h <;>
      exact exact_of_word rfl (lowBits_width a) (lowBits_zero b)
  · rcases hhalf with rfl | rfl <;> cases h <;> exact exact_of_word rfl (lowBits_eq_setWidth 32 a) (lowBits_zero b)
  · cases h
    exact exact_of_word rfl (lowBits_eq_setWidth 32 a) (lowBits_width b)
  · cases h
    exact exact_of_word rfl (lowBits_zero a) (lowBits_width b)
  · cases h
    exact exact_of_word rfl (by simp [lowBits]) (lowBits_zero b)
  · cases h
    exact exact_of_word rfl (lowBits_eq_setWidth 56 a) (lowBits_zero b)
  · rcases hbuffer with rfl | rfl | rfl | rfl | rfl <;> cases h <;> exact exact_of_buffer rfl

/-- The command record of a command decodes to it. -/
theorem decode_encode (i : Instr) : decode (encode i) = .ok i := by
  cases i with
  | f r k => exact congrArg (fun x => Except.ok (Instr.f x k)) (extractLsb'_setWidth (by decide) r)
  | permE x => exact congrArg (Except.ok ∘ Instr.permE) (extractLsb'_setWidth (by decide) x)
  | permP x => exact congrArg (Except.ok ∘ Instr.permP) (extractLsb'_setWidth (by decide) x)
  | permPc2 x => exact congrArg (Except.ok ∘ Instr.permPc2) (extractLsb'_setWidth (by decide) x)
  | rdsk i =>
    revert i
    decide
  | keygen | enc | dec | subst | permIp | permFp | permPc1 | pad | unpad | encrypt | decrypt | new => rfl

theorem encode_injective : Function.Injective encode := fun i j h =>
  Except.ok.inj ((decode_encode i).symm.trans ((congrArg decode h).trans (decode_encode j)))

theorem formatOf_of_mem {op : Byte} (h : op ∈ commandCodes) :
    formatOf op = if (operandSlices op).2.2 then .buffer else .word := by
  revert op
  decide

/-- A record whose one operand is a slice of `a`. -/
theorem exact_eq_self_of_slice {c : Command} {n m : Nat} (h : operandSlices c.op = (n, 0, false)) (hw : 64 = n + m)
    (hs : (c.a.extractLsb' n m == 0 && c.b == 0) = true) (hd : (c.data == []) = true) : c.exact = c := by
  obtain ⟨op, a, b, d⟩ := c
  simp only [Bool.and_eq_true, beq_iff_eq] at hs hd
  obtain ⟨ha, rfl⟩ := hs
  subst hd
  exact exact_of_word h (lowBits_of_surplus_zero hw ha) (lowBits_zero 0)

/-- A command's record in the form that R60 and R64 ask for is its own exact record. -/
theorem exact_eq_self {c : Command} (hop : c.op ∈ commandCodes) (hfmt : c.oneFormat = true)
    (hsurplus : c.surplusZero = true) : c.exact = c := by
  obtain ⟨op, a, b, d⟩ := c
  rw [Command.oneFormat, formatOf_of_mem hop] at hfmt
  rcases commandCodes_cases hop with hblock | hhalf | rfl | rfl | rfl | rfl | hbuffer
  · rcases hblock with rfl | rfl | rfl | rfl | rfl | rfl <;>
    · obtain ⟨rfl, rfl⟩ : d = [] ∧ b = 0 := ⟨eq_of_beq hfmt, eq_of_beq hsurplus⟩
      exact exact_of_word rfl (lowBits_width a) (lowBits_zero 0)
  · rcases hhalf with rfl | rfl <;> exact exact_eq_self_of_slice (m := 32) rfl rfl hsurplus hfmt
  · cases eq_of_beq hfmt
    exact exact_of_word rfl (lowBits_of_surplus_zero (m := 32) rfl (eq_of_beq hsurplus)) (lowBits_width b)
  · obtain ⟨rfl, rfl⟩ : d = [] ∧ a = 0 := ⟨eq_of_beq hfmt, eq_of_beq hsurplus⟩
    exact exact_of_word rfl (lowBits_zero 0) (lowBits_width b)
  · exact exact_eq_self_of_slice (m := 60) rfl rfl hsurplus hfmt
  · exact exact_eq_self_of_slice (m := 8) rfl rfl hsurplus hfmt
  · rcases hbuffer with rfl | rfl | rfl | rfl | rfl <;>
    · obtain ⟨rfl, rfl⟩ : a = 0 ∧ b = 0 := by simpa using (Bool.and_eq_true _ _).mp hfmt
      exact exact_of_buffer rfl

theorem encode_wellFormed : ∀ i, (encode i).wellFormed = true
  | .keygen key => Laws.EncodedForm.keygen key
  | .enc x => Laws.EncodedForm.enc x
  | .dec x => Laws.EncodedForm.dec x
  | .f r k => Laws.EncodedForm.f r k
  | .subst x => Laws.EncodedForm.subst x
  | .rdsk i => Laws.EncodedForm.rdsk i
  | .permIp x => Laws.EncodedForm.permIp x
  | .permFp x => Laws.EncodedForm.permFp x
  | .permE x => Laws.EncodedForm.permE x
  | .permP x => Laws.EncodedForm.permP x
  | .permPc1 x => Laws.EncodedForm.permPc1 x
  | .permPc2 x => Laws.EncodedForm.permPc2 x
  | .pad d => Laws.EncodedForm.pad d
  | .unpad d => Laws.EncodedForm.unpad d
  | .encrypt d => Laws.EncodedForm.encrypt d
  | .decrypt d => Laws.EncodedForm.decrypt d
  | .new d => Laws.EncodedForm.new d

/-- Settles O52: the encoder writes the exact record of what was decoded, which a well-formed record is itself. -/
theorem encodeOfDecode : Obligations.EncodeOfDecode := by
  refine ⟨fun c i hwf h => ?_, encode_wellFormed⟩
  simp only [Command.wellFormed, Bool.and_eq_true] at hwf
  obtain ⟨⟨hfmt, hsurplus⟩, -⟩ := hwf
  exact (encode_eq_exact h).trans (exact_eq_self ((decode_ok_iff c).mp ⟨i, h⟩) hfmt hsurplus)

/-- Records of one command that agree in its operand slices have the same exact record. -/
theorem exact_congr {c c' : Command} (hop : c'.op = c.op)
    (ha : c'.a.toNat % 2 ^ (operandSlices c.op).1 = c.a.toNat % 2 ^ (operandSlices c.op).1)
    (hb : c'.b.toNat % 2 ^ (operandSlices c.op).2.1 = c.b.toNat % 2 ^ (operandSlices c.op).2.1)
    (hd : (operandSlices c.op).2.2 = true → c'.data = c.data) : c'.exact = c.exact := by
  simp only [Command.exact, lowBits, hop, ha, hb]
  split
  case isTrue h => rw [hd h]
  case isFalse => rfl

/-- Settles O53: the two records have one exact record, and the injective encoder writes it for both commands. -/
theorem surplusOperandBitsIgnored : Obligations.SurplusOperandBitsIgnored := by
  intro c c' hmem hop ha hb hd
  obtain ⟨i, hi⟩ := (decode_ok_iff c).mpr hmem
  obtain ⟨i', hi'⟩ := (decode_ok_iff c').mpr (hop ▸ hmem)
  have hexact : encode i' = encode i := by
    rw [encode_eq_exact hi', encode_eq_exact hi, exact_congr hop ha hb hd]
  rw [hi, hi', encode_injective hexact]

end Sys2Proof
end

section
/-! PROOFS. The packed bytes of commands and responses (R66), and reading them back (R73). -/

namespace Sys2Proof

theorem packed_op (c : Command) : c.packed.extractLsb' 112 8 = c.op := by
  refine BitVec.eq_of_toNat_eq ?_
  have := c.a.isLt
  have := c.b.isLt
  have := c.op.isLt
  rw [BitVec.extractLsb'_toNat, packed_toNat, Nat.shiftRight_eq_div_pow]
  omega

theorem packed_b (c : Command) : c.packed.extractLsb' 64 48 = c.b := by
  refine BitVec.eq_of_toNat_eq ?_
  have := c.a.isLt
  have := c.b.isLt
  rw [BitVec.extractLsb'_toNat, packed_toNat, Nat.shiftRight_eq_div_pow]
  omega

theorem packed_a (c : Command) : c.packed.extractLsb' 0 64 = c.a :=
  BitVec.extractLsb'_append_eq_right

/-- A field whose width holds its value reads back exactly. -/
theorem beNat_beBytes_toNat {k w : Nat} (h : 2 ^ w = 256 ^ k) (x : BitVec w) : beNat (beBytes k x.toNat) = x.toNat :=
  (beNat_beBytes k x.toNat).trans (Nat.mod_eq_of_lt (h ▸ x.isLt))

/-- The bytes of the 120-bit word are those of its three fields, `op` first. -/
theorem beBytes_packed (c : Command) :
    beBytes 15 c.packed.toNat = c.op :: (beBytes 6 c.b.toNat ++ beBytes 8 c.a.toNat) := by
  have hval : beNat (c.op :: (beBytes 6 c.b.toNat ++ beBytes 8 c.a.toNat)) = c.packed.toNat := by
    rw [beNat_cons, beNat_append, beNat_beBytes_toNat (by decide), beNat_beBytes_toNat (by decide), packed_toNat]
    simp
    omega
  have hlen : (c.op :: (beBytes 6 c.b.toNat ++ beBytes 8 c.a.toNat)).length = 15 := by simp
  rw [← hval, ← hlen, beBytes_beNat]

/-! What is written for a record, and what is read from it: one lemma per format. -/

theorem writeCommand_word {p : PortProtocol} {c : Command} (h : formatOf c.op = .word) :
    writeCommand p c = beBytes 15 c.packed.toNat := by
  simp [writeCommand, h]

theorem writeCommand_buffer {p : PortProtocol} {c : Command} (h : formatOf c.op = .buffer) :
    writeCommand p c = c.op :: (beBytes p.lenBytes c.data.length ++ c.data) := by
  simp [writeCommand, h]

theorem readCommand_word (p : PortProtocol) {op : Byte} {as bs : List Byte} (rest : List Byte)
    (h : formatOf op = .word) (ha : as.length = 8) (hb : bs.length = 6) :
    readCommand p (op :: (bs ++ as) ++ rest) =
      .ok (.word op (BitVec.ofNat 64 (beNat as)) (BitVec.ofNat 48 (beNat bs)), rest) := by
  have hfits : ¬6 + (8 + rest.length) < 14 := by omega
  have hrest : (bs ++ (as ++ rest)).drop 14 = rest := by
    rw [← List.append_assoc, List.drop_left' (by simp [ha, hb])]
  simp [readCommand, h, ha, hb, hfits, hrest]

theorem readCommand_buffer {p : PortProtocol} {op : Byte} {len data : List Byte} (rest : List Byte)
    (h : formatOf op = .buffer) (hl : len.length = p.lenBytes) (hd : beNat len = data.length) :
    readCommand p (op :: (len ++ data) ++ rest) = .ok (.buffer op data, rest) := by
  simp [readCommand, h, ← hl, hd]

/-- Reading a record in the form of R60 gives it back, when the length field can hold the length of its buffer. -/
theorem readCommand_writeCommand {p : PortProtocol} {c : Command} (rest : List Byte) (hf : c.oneFormat = true)
    (hl : c.data.length < 256 ^ p.lenBytes) : readCommand p (writeCommand p c ++ rest) = .ok (c, rest) := by
  obtain ⟨op, a, b, d⟩ := c
  cases h : formatOf op with
  | word =>
    obtain rfl : d = [] := by simpa [Command.oneFormat, h] using hf
    rw [writeCommand_word h, beBytes_packed, readCommand_word p rest h (beBytes_length _ _) (beBytes_length _ _),
      beNat_beBytes_toNat (by decide), beNat_beBytes_toNat (by decide)]
    simp [Command.word]
  | buffer =>
    obtain ⟨rfl, rfl⟩ : a = 0 ∧ b = 0 := by simpa [Command.oneFormat, h] using hf
    rw [writeCommand_buffer h, readCommand_buffer rest h (beBytes_length _ _)
      ((beNat_beBytes _ _).trans (Nat.mod_eq_of_lt hl))]
    rfl

theorem encode_data (i : Instr) : (encode i).data = i.buffer?.getD [] := by
  cases i <;> rfl

/-- The length field holds the length of what a well-formed command sends (R66); a word command sends no buffer. -/
theorem encode_length_lt {cfg : Config} {i : Instr} (h : i.wellFormed cfg = true) :
    (encode i).data.length < 256 ^ cfg.port.lenBytes := by
  rw [encode_data]
  cases hb : i.buffer? with
  | none => simp
  | some d =>
    simp only [Instr.wellFormed, hb, Bool.and_eq_true, decide_eq_true_eq] at h
    exact h.2

theorem encode_oneFormat (i : Instr) : (encode i).oneFormat = true := by
  have h := encode_wellFormed i
  simp only [Command.wellFormed, Bool.and_eq_true] at h
  obtain ⟨⟨hfmt, -⟩, -⟩ := h
  exact hfmt

theorem decodeBytes_of_read {p : PortProtocol} {bs rest : List Byte} {c : Command} {i : Instr}
    (hr : readCommand p bs = .ok (c, rest)) (hd : decode c = .ok i) : decodeBytes p bs = .ok (i, rest) := by
  simp [decodeBytes, hr, hd]

/-- Settles O51: the framing gives the written record back, and the decoder the command. -/
theorem decodeOfEncode : Obligations.DecodeOfEncode :=
  ⟨decode_encode, fun _ i rest h =>
    decodeBytes_of_read (readCommand_writeCommand rest (encode_oneFormat i) (encode_length_lt h)) (decode_encode i)⟩

/-- Settles O54: the fields are slices of an append, and every packed field reads back as the number it was written from. -/
theorem packedLayouts : Obligations.PackedLayouts := by
  refine ⟨fun c => ⟨packed_op c, packed_b c, packed_a c⟩,
    fun st v => ⟨BitVec.extractLsb'_append_eq_left, BitVec.extractLsb'_append_eq_right⟩, fun p c h => ?_, fun p c h => ?_,
    fun p st v => ⟨beBytes_length _ _, beNat_beBytes_toNat (by decide) _⟩, fun p st d => ?_⟩
  · rw [writeCommand_word h]
    exact ⟨beBytes_length _ _, beNat_beBytes_toNat (by decide) _⟩
  · exact ⟨_, writeCommand_buffer h, beBytes_length _ _, beNat_beBytes _ _⟩
  · exact ⟨_, rfl, beBytes_length _ _, beNat_beBytes _ _⟩

/-- Settles O55: reading and decoding four given words, by evaluation. -/
theorem writtenOutWordsDecode : Obligations.WrittenOutWordsDecode :=
  ⟨rfl, rfl, rfl, rfl⟩

end Sys2Proof
end

section
/-! PROOFS. The pseudo-commands (R71). -/

namespace Sys2Proof.Machine

/-! The key-checked commands at a state that holds a SubkeySet. -/

/-- A word command whose value is a function of the subkeys alone. -/
theorem answersWord_of_withKey {i : Instr} {n : Nat} {v : SubkeySet → BitVec n}
    (hi : exec i = withKey .word fun ks s => completeWord (v ks) s) (ks : SubkeySet) :
    AnswersWord i ks ((v ks).setWidth 64) :=
  fun s hs => (congrFun hi s).trans (withKey_some _ _ hs)

theorem rdsk_answersWord (k : Fin 16) (ks : SubkeySet) : AnswersWord (.rdsk k) ks (ks[k].setWidth 64) :=
  answersWord_of_withKey (v := fun ks => ks[k]) rfl ks

theorem crypt_answersWord (decrypt : Bool) (x : Block) (ks : SubkeySet) :
    AnswersWord (Instr.crypt decrypt x) ks (processBlock x ks decrypt) := by
  rw [← BitVec.setWidth_eq (processBlock x ks decrypt)]
  cases decrypt with
  | false => exact answersWord_of_withKey (v := fun ks => processBlock x ks false) rfl ks
  | true => exact answersWord_of_withKey (v := fun ks => processBlock x ks true) rfl ks

theorem encrypt_answersBuffer (d : List Byte) (ks : SubkeySet) : AnswersBuffer (.encrypt d) ks (transform d ks false) :=
  fun _ hs => withKey_some _ _ hs

theorem decrypt_answersBuffer {d : List Byte} (h : d.length % 8 = 0) (ks : SubkeySet) :
    AnswersBuffer (.decrypt d) ks (transform d ks true) := by
  intro s hs
  simp only [Answers, exec, execDecrypt]
  rw [withKey_some _ _ hs]
  exact if_neg (not_not.mpr h)

theorem transform_answersBuffer {decrypt : Bool} {x : List Byte} {i : Instr} (h : Instr.transform decrypt x = some i)
    (ks : SubkeySet) : AnswersBuffer i ks (Machine.transform x ks decrypt) := by
  cases decrypt with
  | false =>
    cases h
    exact encrypt_answersBuffer x ks
  | true =>
    obtain ⟨hlen, rfl⟩ : x.length % 8 = 0 ∧ Instr.decrypt x = i := by simpa [Instr.transform] using h
    exact decrypt_answersBuffer hlen ks

theorem transform_true_eq_none_iff (x : List Byte) : Instr.transform true x = none ↔ x.length % 8 ≠ 0 := by
  simp [Instr.transform]

/-! Runs of encoded commands. -/

/-- A run goes on from where its first step ends (R217). -/
theorem RunsTo.of_step {n : Nat} {s u t : State} (h : step s = .next u) (hr : RunsTo n u t) : RunsTo (n + 1) s t := by
  have hcore : Sys2Proof.core.step s = .next u := h
  simp only [RunsTo, Host.Core.run, hcore]
  exact hr

/-- A step on the record of a command runs that command. -/
theorem step_of_encode {s : State} {i : Instr} {rest : List PortEvent} (hp : s.pending = .command (encode i) :: rest) :
    step s = exec i (s.take rest) :=
  step_of_decode_ok hp (decode_encode i)

/-- A program of RDSK commands reads the registers in its order and changes nothing. -/
theorem runsTo_rdskProgram {ks : SubkeySet} (regs : List (Fin 16)) {s : State} (hs : s.subkeys = some ks)
    (hp : s.pending = regs.map fun k => .command (encode (.rdsk k))) :
    RunsTo regs.length s { s with
      pending := []
      responses := s.responses ++ (regs.map fun k => ks[k]).map fun v => .word .ok (v.setWidth 64) } := by
  induction regs generalizing s with
  | nil =>
    obtain ⟨_, _, _⟩ := s
    cases hp
    simp [RunsTo, Host.Core.run]
  | cons k regs ih =>
    have hstep := (step_of_encode hp).trans (rdsk_answersWord k ks (s.take _) hs)
    simpa using RunsTo.of_step hstep (ih hs rfl)

/-- Reading registers 0 to 15 reads the SubkeySet in order (R20). -/
theorem map_registers (ks : SubkeySet) : ((List.range 16).map (Fin.ofNat 16)).map (fun k => ks[k]) = ks.toList := by
  refine List.ext_getElem (by simp) fun n h _ => ?_
  have hn : n < 16 := by simpa using h
  simp [Nat.mod_eq_of_lt hn]

/-- The program of `generateSubkeys(k)`: KEYGEN loads the key schedule, then sixteen RDSK read it. -/
theorem runsTo_generateSubkeysProgram {s : State} {key : Block}
    (hp : s.pending = (Instr.generateSubkeysProgram key).map fun i => .command (encode i)) :
    RunsTo 17 s { s with
      subkeys := some (generateSubkeys key)
      pending := []
      responses := s.responses ++
        (.word .ok 0 :: (generateSubkeys key).toList.map fun k => .word .ok (k.setWidth 64)) } := by
  have hload := (step_of_encode hp).trans (keygen_loads key (s.take _))
  have hrun := RunsTo.of_step hload (runsTo_rdskProgram ((List.range 16).map (Fin.ofNat 16)) rfl rfl)
  rw [map_registers] at hrun
  simpa using hrun

/-- Settles O56: the program's run, and the pseudo-commands that stand for one command each. -/
theorem pseudoCommands : Obligations.PseudoCommands :=
  ⟨fun s _ => ⟨_, runsTo_generateSubkeysProgram (s := { s with pending := _ }) rfl, rfl⟩,
    fun ks decrypt x => crypt_answersWord decrypt x ks, fun ks _ _ _ h => transform_answersBuffer h ks, transform_true_eq_none_iff, fun _ => rfl, fun _ => rfl⟩

end Sys2Proof.Machine
end

section
/-! PROOFS. The laws of `permute` (R80, R97). -/

namespace Sys2Proof.Machine

/-- A bit of a word as R80 reads it: shift, then the lowest bit. -/
theorem getLsbD_eq_shiftRight_mod {W : Nat} (x : BitVec W) (k : Nat) :
    x.getLsbD k = decide (x.toNat >>> k % 2 = 1) := by
  rw [← BitVec.testBit_toNat, Nat.testBit_eq_decide_div_mod_eq, Nat.shiftRight_eq_div_pow]

/-- Settles O1: output bit `i` from the most significant is bit `n - 1 - i`, and `permute_getMsbD` names its input bit. -/
theorem permuteSelectsDesPositions : Obligations.PermuteSelectsDesPositions := by
  intro W n t x i h
  have hi : i < n := t.length_eq ▸ h
  calc
    (permute t x).getLsbD (n - 1 - i) = (permute t x).getMsbD i := by simp [BitVec.getMsbD_eq_getLsbD, hi]
    _ = x.getLsbD (W - t.entries[i]) := permute_getMsbD t x i hi
    _ = _ := getLsbD_eq_shiftRight_mod x _

theorem permute_xor {W n : Nat} (t : PermTable W n) (x y : BitVec W) :
    permute t (x ^^^ y) = permute t x ^^^ permute t y := by
  refine BitVec.eq_of_getMsbD_eq fun j hj => ?_
  rw [BitVec.getMsbD_xor, permute_getMsbD t _ j hj, permute_getMsbD t x j hj, permute_getMsbD t y j hj,
    BitVec.getLsbD_xor]

theorem permute_zero {W n : Nat} (t : PermTable W n) : permute t 0 = 0 := by
  refine BitVec.eq_of_getMsbD_eq fun j hj => ?_
  rw [permute_getMsbD t 0 j hj]
  simp

/-- Every output bit is an input bit, since every entry is a position of the input. -/
theorem permute_allOnes {W n : Nat} (t : PermTable W n) : permute t (BitVec.allOnes W) = BitVec.allOnes n := by
  refine BitVec.eq_of_getMsbD_eq fun j hj => ?_
  have hl : j < t.entries.length := t.length_eq.symm ▸ hj
  have hr := t.inRange t.entries[j] (List.getElem_mem hl)
  have hpos : W - t.entries[j] < W := by omega
  simp [permute_getMsbD t _ j hj, hj, hpos]

/-- A bijective table has an entry for every position of its word. -/
theorem PermTable.bijective.exists_entry {n : Nat} {t : PermTable n n} (hb : t.bijective) {j : Nat} (hj : j < n) :
    ∃ (i : Nat) (h : i < t.entries.length), t.entries[i] = j + 1 := by
  refine List.getElem_of_mem (hb.mem_iff.mpr ?_)
  exact List.mem_map.mpr ⟨j, List.mem_range.mpr hj, rfl⟩

/-- R97 (c): position `j + 1` comes from the output position whose entry it is, and the inverse table sends it there. -/
theorem permute_permute_of_inverse {W : Nat} {t t' : PermTable W W} (hb : t.bijective)
    (hinv : ∀ (i : Nat) (h : i < t.entries.length), t'.entries.getD (t.entries[i] - 1) 0 = i + 1) (x : BitVec W) :
    permute t' (permute t x) = x := by
  refine BitVec.eq_of_getMsbD_eq fun j hj => ?_
  obtain ⟨i, hi, hentry⟩ := hb.exists_entry hj
  have hback : t'.entries.getD j 0 = i + 1 := by simpa [hentry] using hinv i hi
  have hget : t.entries.getD i 0 = j + 1 := by rw [List.getD_eq_getElem _ _ hi, hentry]
  rw [permute_getMsbD_position t' _ j hj, hback, Nat.add_sub_cancel,
    permute_getMsbD_position t x i (t.length_eq ▸ hi), hget, Nat.add_sub_cancel]

/-- The 1 bits may be counted from the most significant end. -/
theorem onesCount_eq_countP_getMsbD {n : Nat} (x : BitVec n) : onesCount x = (List.range n).countP x.getMsbD := by
  have hrev : (List.range n).reverse = (List.range n).map fun i => n - 1 - i := by
    rw [List.range_eq_range', List.reverse_range', ← List.range_eq_range', Nat.zero_add]
  rw [onesCount, ← List.countP_reverse, hrev, List.countP_map]
  refine List.countP_congr fun i hi => ?_
  simp [BitVec.getMsbD_eq_getLsbD, List.mem_range.mp hi]

/-- The 1 bits of an image are counted over the entries of the table. -/
theorem onesCount_permute {W n : Nat} (t : PermTable W n) (x : BitVec W) :
    onesCount (permute t x) = t.entries.countP fun p => x.getMsbD (p - 1) := by
  have hentries : t.entries = (List.range n).map fun j => t.entries.getD j 0 :=
    List.ext_getElem (by simp [t.length_eq]) fun j hj _ => by simp [hj]
  rw [onesCount_eq_countP_getMsbD, hentries, List.countP_map]
  refine List.countP_congr fun j hj => ?_
  rw [permute_getMsbD_position t x j (List.mem_range.mp hj), Function.comp]

/-- R97 (d): the entries of a bijective table are all positions, in another order. -/
theorem onesCount_permute_of_bijective {W : Nat} {t : PermTable W W} (hb : t.bijective) (x : BitVec W) :
    onesCount (permute t x) = onesCount x := by
  rw [onesCount_permute, hb.countP_eq, List.countP_map, onesCount_eq_countP_getMsbD]
  rfl

/-- Settles O2: one lemma for each law of R97. -/
theorem permuteLaws : Obligations.PermuteLaws :=
  ⟨fun _ _ => permute_xor, fun _ _ t => ⟨permute_zero t, permute_allOnes t⟩,
    fun _ _ _ => permute_permute_of_inverse, fun _ _ => onesCount_permute_of_bijective⟩

/-- The bit at DES position `p` (R81). -/
theorem getMsbD_sub_one {W p : Nat} (x : BitVec W) (h1 : 1 ≤ p) (h2 : p ≤ W) : x.getMsbD (p - 1) = x.getLsbD (W - p) := by
  have hlt : p - 1 < W := by omega
  rw [BitVec.getMsbD_eq_getLsbD, show W - 1 - (p - 1) = W - p by omega]
  simp [hlt]

/-- `permute_congr` with the selected bits read by DES position. -/
theorem permute_congr_positions {W n : Nat} (t : PermTable W n) {x y : BitVec W}
    (h : ∀ p ∈ t.entries, x.getMsbD (p - 1) = y.getMsbD (p - 1)) : permute t x = permute t y := by
  refine permute_congr t x y fun p hp => ?_
  obtain ⟨h1, h2⟩ := t.inRange p hp
  rw [← getMsbD_sub_one x h1 h2, ← getMsbD_sub_one y h1 h2, h p hp]

end Sys2Proof.Machine
end

section
/-! PROOFS. The six permutation tables (R84 to R89, R96). -/

namespace Sys2Proof.Machine

theorem ip_bijective : ROM.IP.bijective := by
  unfold PermTable.bijective
  decide +kernel

theorem fp_bijective : ROM.FP.bijective := by
  unfold PermTable.bijective
  decide +kernel

theorem p_bijective : ROM.P.bijective := by
  unfold PermTable.bijective
  decide +kernel

/-- R85: FP and IP are inverse to each other, entry by entry. -/
theorem ip_fp_inverse : ∀ i < 64, ROM.FP.entries.getD (ROM.IP.entries.getD i 0 - 1) 0 = i + 1 ∧
    ROM.IP.entries.getD (ROM.FP.entries.getD i 0 - 1) 0 = i + 1 := by
  decide

/-- R88: PC-1 selects no parity position. -/
theorem pc1_no_parity_position : ∀ p ∈ ROM.PC1.entries, p % 8 ≠ 0 := by
  decide

/-- R89: the eight positions of the key pair that PC-2 does not select. -/
theorem pc2_unread_positions : ∀ p ∈ [9, 18, 22, 25, 35, 38, 43, 54], p ∉ ROM.PC2.entries := by
  decide

/-- Settles O3: ranges and lengths are fields of the tables, the rest is read off the entries. -/
theorem tablesMeetTheirProperties : Obligations.TablesMeetTheirProperties :=
  ⟨by decide, by decide, ip_fp_inverse, by decide, by decide, ip_bijective, fp_bijective, p_bijective,
    by decide, pc1_no_parity_position, by decide, pc2_unread_positions, by decide, by decide,
    List.forall_mem_append.mpr ⟨List.forall_mem_append.mpr ⟨ROM.IP.inRange, ROM.FP.inRange⟩, ROM.PC1.inRange⟩,
    List.forall_mem_append.mpr ⟨ROM.E.inRange, ROM.P.inRange⟩, ROM.PC2.inRange, ROM.IP.length_eq, ROM.FP.length_eq,
    ROM.E.length_eq, ROM.P.length_eq, ROM.PC1.length_eq, ROM.PC2.length_eq⟩

theorem permute_fp_permute_ip (x : Block) : permute ROM.FP (permute ROM.IP x) = x :=
  permute_permute_of_inverse ip_bijective (fun i h => by
    rw [← List.getD_eq_getElem _ 0 h]
    exact (ip_fp_inverse i h).1) x

theorem permute_ip_permute_fp (x : Block) : permute ROM.IP (permute ROM.FP x) = x :=
  permute_permute_of_inverse fp_bijective (fun i h => by
    rw [← List.getD_eq_getElem _ 0 h]
    exact (ip_fp_inverse i h).2) x

/-- R94: keys that differ in parity positions only have the same image. -/
theorem permute_pc1_congr {x y : Block} (h : ∀ j < 64, j % 8 ≠ 7 → x.getMsbD j = y.getMsbD j) :
    permute ROM.PC1 x = permute ROM.PC1 y := by
  refine permute_congr_positions _ fun p hp => ?_
  have hparity := pc1_no_parity_position p hp
  have hrange := ROM.PC1.inRange p hp
  exact h (p - 1) (by omega) (by omega)

/-- R95: key pairs that differ in the unread positions only have the same image. -/
theorem permute_pc2_congr {x y : KeyPair}
    (h : ∀ p < 57, p ∉ [0, 9, 18, 22, 25, 35, 38, 43, 54] → x.getMsbD (p - 1) = y.getMsbD (p - 1)) :
    permute ROM.PC2 x = permute ROM.PC2 y := by
  refine permute_congr_positions _ fun p hp => ?_
  have hrange := ROM.PC2.inRange p hp
  refine h p (by omega) fun hmem => ?_
  rcases List.mem_cons.mp hmem with rfl | hunread
  · omega
  · exact pc2_unread_positions p hunread hp

end Sys2Proof.Machine
end

section
/-! PROOFS. The six PERM commands (R90 to R95). -/

namespace Sys2Proof.Machine

/-- A command that completes with `v` answers `v`, zero-extended, in every state (R64, R65). -/
theorem answers_of_completeWord {i : Instr} {n : Nat} {v : BitVec n} {w : Block} (hi : exec i = completeWord v)
    (h : v.setWidth 64 = w) (s : State) : Answers i s (.word .ok w) :=
  h ▸ (congrFun hi s).trans (completeWord_eq v s)

theorem permIp_answers {x v : Block} (h : permute ROM.IP x = v) (s : State) : Answers (.permIp x) s (.word .ok v) :=
  answers_of_completeWord rfl ((BitVec.setWidth_eq _).trans h) s

theorem permFp_answers {x v : Block} (h : permute ROM.FP x = v) (s : State) : Answers (.permFp x) s (.word .ok v) :=
  answers_of_completeWord rfl ((BitVec.setWidth_eq _).trans h) s

theorem permE_answers {x : Half} {v : Block} (h : (permute ROM.E x).setWidth 64 = v) (s : State) :
    Answers (.permE x) s (.word .ok v) :=
  answers_of_completeWord rfl h s

theorem permP_answers {x : Half} {v : Block} (h : (permute ROM.P x).setWidth 64 = v) (s : State) :
    Answers (.permP x) s (.word .ok v) :=
  answers_of_completeWord rfl h s

theorem permPc1_answers {x v : Block} (h : (permute ROM.PC1 x).setWidth 64 = v) (s : State) :
    Answers (.permPc1 x) s (.word .ok v) :=
  answers_of_completeWord rfl h s

theorem permPc2_answers {x : KeyPair} {v : Block} (h : (permute ROM.PC2 x).setWidth 64 = v) (s : State) :
    Answers (.permPc2 x) s (.word .ok v) :=
  answers_of_completeWord rfl h s

/-- The low `n` bits of a zero-extended image are the positions the table selects, and the bits above are zero. -/
theorem setWidth_permute_bits {W n : Nat} (t : PermTable W n) (x : BitVec W) (hn : n ≤ 64) :
    (∀ j < n, ((permute t x).setWidth 64).getLsbD (n - 1 - j) = x.getMsbD (t.entries.getD j 0 - 1)) ∧
      ((permute t x).setWidth 64).toNat < 2 ^ n := by
  refine ⟨fun j hj => ?_, (BitVec.toNat_setWidth_of_le hn).trans_lt (permute t x).isLt⟩
  have hlt : n - 1 - j < 64 := by omega
  rw [← permute_getMsbD_position t x j hj, BitVec.getMsbD_eq_getLsbD]
  simp [hj, hlt]

/-- Settles O4: the result by `permute_getMsbD_position`, the constant operands by R97 (b), the others by evaluation. -/
theorem permIpCommand : Obligations.PermIpCommand :=
  ⟨⟨rfl, fun _ _ _ => rfl⟩, fun s x => ⟨_, permIp_answers rfl s, permute_getMsbD_position ROM.IP x⟩,
    fun s => ⟨permIp_answers (permute_zero _) s, permIp_answers (permute_allOnes _) s, permIp_answers (by decide +kernel) s,
      permIp_answers (by decide +kernel) s, permIp_answers (by decide +kernel) s⟩⟩

/-- Settles O5: as PERM.IP; the two inversions are R97 (c) for IP and FP. -/
theorem permFpCommand : Obligations.PermFpCommand :=
  ⟨⟨rfl, fun _ _ _ => rfl⟩, fun s x => ⟨_, permFp_answers rfl s, permute_getMsbD_position ROM.FP x⟩,
    fun s x => ⟨_, permIp_answers rfl s, permFp_answers (permute_fp_permute_ip x)⟩,
    fun s x => ⟨_, permFp_answers rfl s, permIp_answers (permute_ip_permute_fp x)⟩,
    fun s => ⟨permFp_answers (permute_zero _) s, permFp_answers (permute_allOnes _) s, permFp_answers (by decide +kernel) s,
      permFp_answers (by decide +kernel) s, permFp_answers (by decide +kernel) s⟩⟩

/-- Settles O6: the zero-extended image of E, evaluated at the corner cases. -/
theorem permECommand : Obligations.PermECommand :=
  ⟨⟨rfl, fun _ _ _ => rfl⟩, fun s x => ⟨_, permE_answers rfl s, setWidth_permute_bits ROM.E x (by decide)⟩,
    fun s => ⟨permE_answers (congrArg _ (permute_zero _)) s, permE_answers (congrArg _ (permute_allOnes ROM.E)) s,
      permE_answers (by decide +kernel) s, permE_answers (by decide +kernel) s, permE_answers (by decide +kernel) s⟩⟩

/-- Settles O7: the zero-extended image of P, evaluated at the corner cases. -/
theorem permPCommand : Obligations.PermPCommand :=
  ⟨⟨rfl, fun _ _ _ => rfl⟩, fun s x => ⟨_, permP_answers rfl s, setWidth_permute_bits ROM.P x (by decide)⟩,
    fun s => ⟨permP_answers (congrArg _ (permute_zero _)) s, permP_answers (congrArg _ (permute_allOnes ROM.P)) s,
      permP_answers (by decide +kernel) s, permP_answers (by decide +kernel) s, permP_answers (by decide +kernel) s⟩⟩

/-- Settles O8: the zero-extended image of PC-1, which `permute_pc1_congr` says the parity positions do not change. -/
theorem permPc1Command : Obligations.PermPc1Command :=
  ⟨⟨rfl, fun _ _ _ => rfl⟩, fun s x => ⟨_, permPc1_answers rfl s, setWidth_permute_bits ROM.PC1 x (by decide)⟩,
    fun _ _ h => ⟨_, fun s => ⟨permPc1_answers (congrArg _ (permute_pc1_congr h)) s, permPc1_answers rfl s⟩⟩,
    fun s => ⟨permPc1_answers (by decide +kernel) s, permPc1_answers (by decide +kernel) s,
      permPc1_answers (by decide +kernel) s, permPc1_answers (by decide +kernel) s, permPc1_answers (by decide +kernel) s⟩⟩

/-- Settles O9: the zero-extended image of PC-2, which `permute_pc2_congr` says the unread positions do not change. -/
theorem permPc2Command : Obligations.PermPc2Command :=
  ⟨⟨rfl, fun _ _ _ => rfl⟩, fun s x => ⟨_, permPc2_answers rfl s, setWidth_permute_bits ROM.PC2 x (by decide)⟩,
    fun _ _ h => ⟨_, fun s => ⟨permPc2_answers (congrArg _ (permute_pc2_congr h)) s, permPc2_answers rfl s⟩⟩,
    fun s => ⟨permPc2_answers (congrArg _ (permute_zero _)) s, permPc2_answers (congrArg _ (permute_allOnes ROM.PC2)) s,
      permPc2_answers (by decide +kernel) s, permPc2_answers (by decide +kernel) s, permPc2_answers (by decide +kernel) s⟩⟩

end Sys2Proof.Machine
end

section
/-! PROOFS. The rotation of the key halves (R100, R101). -/

namespace Sys2Proof.Machine

/-- The two shifted words of R101 have no 1 bit in common, so their sum is their union. -/
theorem shiftLeft_and_ushiftRight (v : KeyHalf) (s : Nat) : v <<< s &&& v >>> (28 - s) = 0#28 := by
  refine BitVec.eq_of_getLsbD_eq fun i _ => ?_
  rw [BitVec.getLsbD_and, BitVec.getLsbD_shiftLeft, BitVec.getLsbD_ushiftRight, BitVec.getLsbD_zero]
  by_cases hi : i < s
  · simp [hi]
  · rw [BitVec.getLsbD_of_ge v (28 - s + i) (by omega), Bool.and_false]

/-- R101's formula over natural numbers. -/
theorem rotl28_toNat (v : KeyHalf) (s : Nat) : (rotl28 v s).toNat = v.toNat <<< s % 2 ^ 28 + v.toNat >>> (28 - s) := by
  rw [rotl28, BitVec.toNat_add_of_and_eq_zero (shiftLeft_and_ushiftRight v s), BitVec.toNat_shiftLeft,
    BitVec.toNat_ushiftRight]

/-- The formula of R101 is the circular rotation that it is there for. -/
theorem rotl28_eq_rotateLeft (v : KeyHalf) {s : Nat} (h : s < 28) : rotl28 v s = v.rotateLeft s := by
  rw [rotl28, BitVec.add_eq_or_of_and_eq_zero _ _ (shiftLeft_and_ushiftRight v s), BitVec.rotateLeft_def,
    Nat.mod_eq_of_lt h]

theorem rotateLeft_rotateLeft {w : Nat} (x : BitVec w) (a b : Nat) :
    (x.rotateLeft a).rotateLeft b = x.rotateLeft (a + b) := by
  refine BitVec.eq_of_getMsbD_eq fun j hj => ?_
  simp [BitVec.getMsbD_rotateLeft, hj, Nat.mod_lt _ (Nat.zero_lt_of_lt hj), Nat.add_assoc]

theorem rotateLeft_zero {w : Nat} (x : BitVec w) : x.rotateLeft 0 = x := by
  refine BitVec.eq_of_getMsbD_eq fun j hj => ?_
  simp [BitVec.getMsbD_rotateLeft, hj, Nat.mod_eq_of_lt hj]

/-- A rotation by the whole width is none. -/
theorem rotateLeft_width {w : Nat} (x : BitVec w) : x.rotateLeft w = x := by
  rw [← BitVec.rotateLeft_mod_eq_rotateLeft, Nat.mod_self, rotateLeft_zero]

/-- All bits of the word are alike (R105 (e)). -/
def IsConstant {w : Nat} (x : BitVec w) : Prop :=
  x = 0 ∨ x = BitVec.allOnes w

theorem rotateLeft_of_constant {w : Nat} {x : BitVec w} (h : IsConstant x) (r : Nat) : x.rotateLeft r = x := by
  refine BitVec.eq_of_getMsbD_eq fun j hj => ?_
  rcases h with rfl | rfl
  · simp [BitVec.getMsbD_rotateLeft]
  · simp [BitVec.getMsbD_rotateLeft, hj, Nat.mod_lt _ (Nat.zero_lt_of_lt hj)]

/-- R101: bit `i` comes from the bit below it, and bit 0 from bit 27. -/
theorem getLsbD_rotl28_one (v : KeyHalf) {i : Nat} (h : i < 28) : (rotl28 v 1).getLsbD i = v.getLsbD ((i + 27) % 28) := by
  rw [rotl28_eq_rotateLeft v (by decide), BitVec.getLsbD_rotateLeft]
  cases i with
  | zero => rfl
  | succ k =>
    rw [show (k + 1 + 27) % 28 = k by omega]
    simp [h]

/-- Settles O11: the formula does not carry (`rotl28_toNat`), and rotations add up (`rotateLeft_rotateLeft`). -/
theorem rotationOfKeyHalves : Obligations.RotationOfKeyHalves := by
  refine ⟨fun v s _ => rotl28_toNat v s, fun v i => getLsbD_rotl28_one v, fun v => ?_, by decide, by decide, by decide,
    by decide, by decide, by decide⟩
  rw [rotl28_eq_rotateLeft v (by decide), rotl28_eq_rotateLeft v (by decide), rotl28_eq_rotateLeft _ (by decide),
    rotateLeft_rotateLeft]

/-- Settles O10: the sixteen entries of the schedule, and their partial sums. -/
theorem shiftSchedule : Obligations.ShiftSchedule :=
  ⟨by decide, by decide⟩

/-- How far the halves of round `n` are rotated from those that PC-1 gives (R100, R103). -/
def totalShift (n : Nat) : Nat :=
  ((List.range n).map fun k => shift (k + 1)).sum

theorem totalShift_succ (n : Nat) : totalShift (n + 1) = totalShift n + shift (n + 1) := by
  simp [totalShift, List.range_succ]

theorem shift_lt (n : Nat) : shift n < 28 := by
  unfold shift
  by_cases h : n - 1 < 16
  · have hentries : ∀ k < 16, ROM.SHIFT.toList.getD k 0 < 28 := by decide
    exact hentries _ h
  · rw [List.getD_eq_default _ _ (by simpa using h)]
    decide

end Sys2Proof.Machine
end

section
/-! PROOFS. The halves and the subkeys of the key schedule (R102, R103, R105). -/

namespace Sys2Proof.Machine

/-- DES position `j + 1` of a slice of a word. -/
theorem getMsbD_slice {w n k : Nat} (x : BitVec w) (hk : k + n ≤ w) {j : Nat} (hj : j < n) :
    (x.extractLsb' k n).getMsbD j = x.getMsbD (w - (k + n) + j) := by
  have hle : k + n - j ≤ w := by omega
  rw [BitVec.getMsbD_extractLsb', show w - (k + n - j) = w - (k + n) + j by omega]
  simp [hj, hle]

theorem leftKeyHalf_getMsbD (cd : KeyPair) {j : Nat} (h : j < 28) : (leftKeyHalf cd).getMsbD j = cd.getMsbD j := by
  rw [leftKeyHalf, getMsbD_slice cd (by decide) h, Nat.sub_self, Nat.zero_add]

theorem rightKeyHalf_getMsbD (cd : KeyPair) {j : Nat} (h : j < 28) : (rightKeyHalf cd).getMsbD j = cd.getMsbD (28 + j) :=
  getMsbD_slice cd (by decide) h

/-- DES position `i + 1` of two key halves put together. -/
theorem getMsbD_append_keyHalf (c d : KeyHalf) (i : Nat) :
    (c ++ d : KeyPair).getMsbD i = if 28 ≤ i then d.getMsbD (i - 28) else c.getMsbD i :=
  @BitVec.getMsbD_append 28 28 i c d

theorem keyHalf_append (cd : KeyPair) : (leftKeyHalf cd ++ rightKeyHalf cd : KeyPair) = cd := by
  refine BitVec.eq_of_getMsbD_eq fun j hj => ?_
  rw [getMsbD_append_keyHalf]
  split
  case isTrue h => rw [rightKeyHalf_getMsbD cd (by omega), Nat.add_sub_cancel' h]
  case isFalse h => exact leftKeyHalf_getMsbD cd (by omega)

theorem keyHalves_zero (key : Block) :
    keyHalves key 0 = (leftKeyHalf (permute ROM.PC1 key), rightKeyHalf (permute ROM.PC1 key)) := rfl

theorem keyHalves_succ (key : Block) (n : Nat) :
    keyHalves key (n + 1) =
      (rotl28 (keyHalves key n).1 (shift (n + 1)), rotl28 (keyHalves key n).2 (shift (n + 1))) := rfl

/-- The halves of a round are those of the start, rotated by all the shifts so far. -/
theorem keyHalves_eq_rotateLeft (key : Block) (n : Nat) :
    keyHalves key n =
      ((keyHalves key 0).1.rotateLeft (totalShift n), (keyHalves key 0).2.rotateLeft (totalShift n)) := by
  induction n with
  | zero => exact (congrArg₂ Prod.mk (rotateLeft_zero _) (rotateLeft_zero _)).symm
  | succ n ih =>
    rw [keyHalves_succ, ih, rotl28_eq_rotateLeft _ (shift_lt _), rotl28_eq_rotateLeft _ (shift_lt _),
      rotateLeft_rotateLeft, rotateLeft_rotateLeft, totalShift_succ]

theorem generateSubkeys_getElem (key : Block) {n : Nat} (h : n < 16) :
    (generateSubkeys key)[n] = permute ROM.PC2 ((keyHalves key (n + 1)).1 ++ (keyHalves key (n + 1)).2) :=
  Vector.getElem_ofFn h

/-- Settles O12: the halves are `keyHalves`, the bits of PC-1 and PC-2 by `permute_getMsbD_position`. -/
theorem keyScheduleRecurrence : Obligations.KeyScheduleRecurrence := by
  refine fun key => ⟨fun n => (keyHalves key n).1, fun n => (keyHalves key n).2, fun j hj => ?_, fun j hj => ?_,
    fun n h => ⟨congrArg Prod.fst (keyHalves_succ key n), congrArg Prod.snd (keyHalves_succ key n), fun j hj => ?_⟩⟩
  · exact (leftKeyHalf_getMsbD _ hj).trans (permute_getMsbD_position ROM.PC1 key j (by omega))
  · exact (rightKeyHalf_getMsbD _ hj).trans (permute_getMsbD_position ROM.PC1 key (28 + j) (by omega))
  · rw [generateSubkeys_getElem key h]
    exact permute_getMsbD_position ROM.PC2 _ j hj

/-- R105 (c): the key schedule sees a key only through PC-1. -/
theorem generateSubkeys_congr {k k' : Block} (h : permute ROM.PC1 k = permute ROM.PC1 k') :
    generateSubkeys k = generateSubkeys k' := by
  refine Vector.ext fun n hn => ?_
  rw [generateSubkeys_getElem k hn, generateSubkeys_getElem k' hn, keyHalves_eq_rotateLeft k, keyHalves_eq_rotateLeft k',
    keyHalves_zero, keyHalves_zero, h]

/-- R105 (d): sixteen rounds rotate the halves once around. -/
theorem keyHalves_sixteen (key : Block) : keyHalves key 16 = keyHalves key 0 := by
  have htotal : totalShift 16 = 28 := by decide
  rw [keyHalves_eq_rotateLeft, htotal, rotateLeft_width, rotateLeft_width]

/-- R105 (e): constant halves do not change from round to round, so that all subkeys are one. -/
theorem generateSubkeys_of_constant {key : Block} {cd : KeyPair} (h : permute ROM.PC1 key = cd)
    (hc : IsConstant (leftKeyHalf cd)) (hd : IsConstant (rightKeyHalf cd)) :
    generateSubkeys key = Vector.replicate 16 (permute ROM.PC2 cd) := by
  refine Vector.ext fun n hn => ?_
  rw [generateSubkeys_getElem key hn, keyHalves_eq_rotateLeft, keyHalves_zero, h, rotateLeft_of_constant hc,
    rotateLeft_of_constant hd, keyHalf_append, Vector.getElem_replicate]

/-- With sixteen equal subkeys their order does not matter (R143). -/
theorem processBlock_replicate (x : Block) (k : Subkey) :
    processBlock x (Vector.replicate 16 k) true = processBlock x (Vector.replicate 16 k) false := by
  have hround : feistelRound (Vector.replicate 16 k) true = feistelRound (Vector.replicate 16 k) false := by
    funext lr r
    simp [feistelRound, roundKey]
  rw [processBlock, processBlock, hround]

/-- R89: the first 24 entries of PC-2 are positions of `C`. -/
theorem pc2_entry_lt : ∀ j < 24, ROM.PC2.entries.getD j 0 - 1 < 28 := by
  decide

/-- R89: the last 24 entries of PC-2 are positions of `D`. -/
theorem pc2_entry_ge : ∀ j < 24, 28 ≤ ROM.PC2.entries.getD (24 + j) 0 - 1 := by
  decide

/-- R105 (f): the upper 24 bits of a subkey are bits of `C`. -/
theorem subkey_upper_getMsbD (c d : KeyHalf) {j : Nat} (h : j < 24) :
    ((permute ROM.PC2 (c ++ d)).extractLsb' 24 24).getMsbD j = c.getMsbD (ROM.PC2.entries.getD j 0 - 1) := by
  have hentry := pc2_entry_lt j h
  rw [getMsbD_slice _ (by decide) h, Nat.sub_self, Nat.zero_add, permute_getMsbD_position _ _ j (by omega),
    getMsbD_append_keyHalf, if_neg (by omega)]

/-- R105 (f): the lower 24 bits of a subkey are bits of `D`. -/
theorem subkey_lower_getMsbD (c d : KeyHalf) {j : Nat} (h : j < 24) :
    ((permute ROM.PC2 (c ++ d)).extractLsb' 0 24).getMsbD j = d.getMsbD (ROM.PC2.entries.getD (24 + j) 0 - 1 - 28) := by
  rw [getMsbD_slice _ (by decide) h, permute_getMsbD_position _ _ _ (by omega), getMsbD_append_keyHalf,
    if_pos (pc2_entry_ge j h)]

theorem generateSubkeys_of_pc1_zero {key : Block} (h : permute ROM.PC1 key = 0) :
    generateSubkeys key = Vector.replicate 16 0 :=
  (generateSubkeys_of_constant h (.inl rfl) (.inl rfl)).trans (congrArg _ (permute_zero _))

theorem generateSubkeys_of_pc1_allOnes {key : Block} (h : permute ROM.PC1 key = BitVec.allOnes 56) :
    generateSubkeys key = Vector.replicate 16 (BitVec.allOnes 48) :=
  (generateSubkeys_of_constant h (.inr rfl) (.inr rfl)).trans (congrArg _ (permute_allOnes _))

/-- Settles O13: one lemma for each property of R105. -/
theorem keyScheduleProperties : Obligations.KeyScheduleProperties := by
  refine ⟨fun s key => keygen_loads key s, fun key n h => Nat.le_sub_one_of_lt (BitVec.isLt _),
    fun k k' h => generateSubkeys_congr (permute_pc1_congr h), keyHalves_sixteen, fun key hc hd => ?_,
    ⟨generateSubkeys_of_pc1_zero (permute_zero _), generateSubkeys_of_pc1_zero (by decide +kernel),
      generateSubkeys_of_pc1_allOnes (permute_allOnes _), generateSubkeys_of_pc1_allOnes (by decide +kernel)⟩,
    fun c c' d => ?_, fun c d d' => ?_⟩
  · rw [generateSubkeys_of_constant rfl hc hd]
    exact ⟨fun m n hm hn => by rw [Vector.getElem_replicate, Vector.getElem_replicate],
      fun x => processBlock_replicate x _⟩
  · exact BitVec.eq_of_getMsbD_eq fun j hj => by rw [subkey_lower_getMsbD c d hj, subkey_lower_getMsbD c' d hj]
  · exact BitVec.eq_of_getMsbD_eq fun j hj => by rw [subkey_upper_getMsbD c d hj, subkey_upper_getMsbD c d' hj]

end Sys2Proof.Machine
end

section
/-! PROOFS. KEYGEN, NEW and RDSK (R104, R106, R107). -/

namespace Sys2Proof.Machine

/-- The subkey of round 1 in the worked example (R104, R107). -/
theorem generateSubkeys_worked_first : (generateSubkeys 0x133457799BBCDFF1)[0] = 0x1B02EFFC7072 := by
  decide +kernel

/-- Settles O14: the key load is `keygen_loads`; with the key already loaded it is an answer. -/
theorem keygenCommand : Obligations.KeygenCommand :=
  ⟨⟨rfl, fun _ _ _ => rfl⟩, fun s key => keygen_loads key s, fun s key h => (keygen_loads key s).answers h,
    generateSubkeys_worked_first, by decide +kernel⟩

/-- A key of another length than 8 bytes is refused and changes nothing (R106). -/
theorem new_answers_keyLengthError {d : List Byte} (h : d.length ≠ 8) (s : State) :
    Answers (.new d) s (.buffer .keyLengthError []) :=
  if_pos h

/-- Settles O15: the key is `be64` of the eight bytes, which `beNat_eight` writes out. -/
theorem newCommand : Obligations.NewCommand :=
  ⟨⟨rfl, fun _ _ _ => rfl⟩, fun s _ h => new_answers_keyLengthError h s,
    fun s d h => ⟨be64 d, (be64_toNat h).trans (beNat_eight h), new_loads h s, keygen_loads _ s⟩,
    fun s => ⟨new_loads rfl s, new_answers_keyLengthError (by decide) s⟩⟩

theorem rdsk_answersWord_of_register {k : Fin 16} {ks : SubkeySet} {v : Block} (h : ks[k].setWidth 64 = v) :
    AnswersWord (.rdsk k) ks v :=
  h ▸ rdsk_answersWord k ks

/-- Settles O16: the key check raises without a key, and `rdsk_answersWord` reads the register with one. -/
theorem rdskCommand : Obligations.RdskCommand :=
  ⟨⟨rfl, fun _ _ _ => rfl⟩, fun _ _ h => answers_noKeyError .word rfl h,
    fun s ks i h => ⟨_, BitVec.toNat_setWidth_of_le (by decide), rdsk_answersWord i ks s h⟩,
    rdsk_answersWord_of_register (congrArg (BitVec.setWidth 64) generateSubkeys_worked_first),
    answers_noKeyError .word rfl reset_subkeys⟩

end Sys2Proof.Machine
end

section
/-! PROOFS. The S-box groups, `substitute` and SUBST (R129 to R132). -/

namespace Sys2Proof.Machine

/-- R129: the outer two bits, the first of them the high bit of the row. -/
theorem sboxRow_toNat (g : Group) : (sboxRow g).toNat = 2 * (g.toNat / 32 % 2) + g.toNat % 2 := by
  have houter (k : Nat) : (BitVec.ofBool (g.getLsbD k)).toNat = g.toNat / 2 ^ k % 2 := by
    rw [BitVec.toNat_ofBool, ← BitVec.testBit_toNat, Nat.toNat_testBit]
  rw [sboxRow, BitVec.toNat_append, ← Nat.shiftLeft_add_eq_or_of_lt (BitVec.isLt _), houter, houter, Nat.shiftLeft_eq]
  omega

/-- R129: the inner four bits. -/
theorem sboxCol_toNat (g : Group) : (sboxCol g).toNat = g.toNat / 2 % 16 := by
  rw [sboxCol, BitVec.extractLsb'_toNat, Nat.shiftRight_eq_div_pow]

/-- R130: group `i + 1` is six bits of the word. -/
theorem sboxGroup_toNat (x : Subkey) (i : Fin 8) : (sboxGroup x i).toNat = x.toNat / 2 ^ (42 - 6 * i.val) % 64 := by
  rw [sboxGroup, BitVec.extractLsb'_toNat, Nat.shiftRight_eq_div_pow]

/-- Settles O17: one lemma for each slice, and the examples by evaluation. -/
theorem sboxAddressing : Obligations.SboxAddressing :=
  ⟨fun g => ⟨sboxRow_toNat g, sboxCol_toNat g⟩, sboxGroup_toNat, by decide⟩

/-- Each of eight nibbles put together stands at its place: the nibbles below it are shifted out, those above it cut off. -/
theorem nibble_of_append (a : Fin 8 → Nibble) (i : Fin 8) :
    (a 0 ++ a 1 ++ a 2 ++ a 3 ++ a 4 ++ a 5 ++ a 6 ++ a 7).extractLsb' (28 - 4 * i.val) 4 = a i := by
  match i with
  | 0 =>
    simp (disch := decide) only [BitVec.extractLsb'_append_eq_of_le]
    exact BitVec.extractLsb'_eq_self
  | 1 | 2 | 3 | 4 | 5 | 6 =>
    simp (disch := decide) only [BitVec.extractLsb'_append_eq_of_le]
    exact BitVec.extractLsb'_append_eq_right
  | 7 => exact BitVec.extractLsb'_append_eq_right

/-- R131: the output nibble of a box, which reads the group of its own number. -/
theorem substitute_nibble (x : Subkey) (i : Fin 8) :
    (substitute x).extractLsb' (28 - 4 * i.val) 4 = sboxOut i (sboxGroup x i) :=
  nibble_of_append (fun b => sboxOut b (sboxGroup x b)) i

/-- Settles O18: both clauses are `substitute_nibble`, since an output nibble is a function of one group. -/
theorem substituteByGroups : Obligations.SubstituteByGroups := by
  refine ⟨substitute_nibble, fun x y b h c hc => ?_⟩
  rw [substitute_nibble, substitute_nibble, h c hc]

/-- R135 (c): row 0, column 0 of every box. -/
theorem substitute_zero : substitute 0 = 0xEFA72C4D := by
  decide +kernel

/-- R135 (c): row 3, column 15 of every box. -/
theorem substitute_allOnes : substitute 0xFFFFFFFFFFFF = 0xD9CE3DCB := by
  decide +kernel

/-- The worked example of R132, which is also the third step of the worked example of R133. -/
theorem substitute_worked : substitute 0x6117BA866527 = 0x5C82B597 := by
  decide +kernel

theorem subst_answers {x : Subkey} {v : Block} (h : (substitute x).setWidth 64 = v) (s : State) :
    Answers (.subst x) s (.word .ok v) :=
  answers_of_completeWord rfl h s

/-- Settles O19: the zero-extended `substitute`, evaluated at the corner cases. -/
theorem substCommand : Obligations.SubstCommand :=
  ⟨⟨rfl, fun _ _ _ => rfl⟩, fun s x => ⟨_, BitVec.toNat_setWidth_of_le (by decide), subst_answers rfl s⟩,
    fun s => ⟨subst_answers (congrArg (BitVec.setWidth 64) substitute_zero) s,
      subst_answers (congrArg (BitVec.setWidth 64) substitute_allOnes) s, subst_answers (by decide +kernel) s,
      subst_answers (by decide +kernel) s, subst_answers (by decide +kernel) s, subst_answers (by decide +kernel) s,
      subst_answers (congrArg (BitVec.setWidth 64) substitute_worked) s⟩⟩

end Sys2Proof.Machine
end

section
/-! PROOFS. The round function and F (R133 to R135). -/

namespace Sys2Proof.Machine

/-- R135 (b): the operands count only through `E(r) xor k`. -/
theorem roundF_congr {r r' : Half} {k k' : Subkey} (h : permute ROM.E r ^^^ k = permute ROM.E r' ^^^ k') :
    roundF r k = roundF r' k' := by
  rw [roundF, roundF, h]

/-- A complement is the xor with all ones, so R97 (a) and (b) carry it through any table. -/
theorem permute_not {W n : Nat} (t : PermTable W n) (x : BitVec W) : permute t (~~~x) = ~~~permute t x := by
  rw [← BitVec.xor_allOnes, permute_xor, permute_allOnes, BitVec.xor_allOnes]

/-- R135 (b): the complements of both operands cancel in `E(r) xor k`. -/
theorem roundF_not (r : Half) (k : Subkey) : roundF (~~~r) (~~~k) = roundF r k := by
  refine roundF_congr ?_
  rw [permute_not, ← BitVec.not_xor_left, ← BitVec.not_xor_right, BitVec.not_not]

/-- R135 (d): each row of each box is a permutation of 0..15. -/
theorem sbox_row_perm : ∀ (b : Fin 8) (row : Fin 4), (ROM.S[b][row].toList.map BitVec.toNat).Perm (List.range 16) := by
  decide +kernel

/-- R135 (e): `f` does not send 0 to 0, so it is not linear. -/
theorem roundF_zero : roundF 0 0 = 0xD8D8DBBC := by
  decide +kernel

/-- Settles O21: one lemma for each property of R135. -/
theorem roundFunctionProperties : Obligations.RoundFunctionProperties :=
  ⟨fun _ _ _ _ => roundF_congr, roundF_not, substitute_zero, substitute_allOnes, sbox_row_perm, roundF_zero,
    roundF_zero ▸ by decide⟩

/-- A corner case of R133: only one of the two operands complemented. -/
theorem roundF_allOnes_zero : roundF 0xFFFFFFFF 0 = 0x38DBF9CB := by
  decide +kernel

theorem f_answers {r : Half} {k : Subkey} {v : Block} (h : (roundF r k).setWidth 64 = v) (s : State) :
    Answers (.f r k) s (.word .ok v) :=
  answers_of_completeWord rfl h s

/-- Settles O20: the expansion is `permute ROM.E right`, the result bits are those of the P table, and each complemented
corner case has the value of its complement (`roundF_not`). -/
theorem fCommand : Obligations.FCommand :=
  ⟨⟨rfl, fun _ _ _ => rfl⟩,
    fun s r k => ⟨permute ROM.E r, _, f_answers rfl s, permute_getMsbD_position ROM.E r,
      setWidth_permute_bits ROM.P (substitute (permute ROM.E r ^^^ k)) (by decide)⟩,
    fun s => ⟨f_answers (congrArg (BitVec.setWidth 64) roundF_zero) s,
      f_answers (congrArg (BitVec.setWidth 64) roundF_allOnes_zero) s,
      f_answers (congrArg (BitVec.setWidth 64) ((roundF_not 0xFFFFFFFF 0).trans roundF_allOnes_zero)) s,
      f_answers (congrArg (BitVec.setWidth 64) ((roundF_not 0 0).trans roundF_zero)) s,
      f_answers (by decide +kernel) s, f_answers (by decide +kernel) s⟩,
    by decide +kernel, by decide, substitute_worked⟩

end Sys2Proof.Machine
end

section
/-! PROOFS. The block operation by rounds (R140 to R144). -/

namespace Sys2Proof.Machine

theorem leftHalf_getMsbD (w : Block) {j : Nat} (h : j < 32) : (leftHalf w).getMsbD j = w.getMsbD j := by
  rw [leftHalf, getMsbD_slice w (by decide) h, Nat.sub_self, Nat.zero_add]

theorem rightHalf_getMsbD (w : Block) {j : Nat} (h : j < 32) : (rightHalf w).getMsbD j = w.getMsbD (32 + j) :=
  getMsbD_slice w (by decide) h

/-- `(L_0, R_0)`: the halves of a block after IP (R142). -/
def entryHalves (block : Block) : Half × Half :=
  (leftHalf (permute ROM.IP block), rightHalf (permute ROM.IP block))

/-- `(L_n, R_n)`: the halves after the first `n` rounds (R141). -/
def roundHalves (block : Block) (ks : SubkeySet) (decrypt : Bool) (n : Nat) : Half × Half :=
  (rounds.take n).foldl (feistelRound ks decrypt) (entryHalves block)

theorem rounds_getElem : ∀ r : Fin 16, rounds[r.val]'r.isLt = r := by
  decide

theorem roundHalves_succ (block : Block) (ks : SubkeySet) (decrypt : Bool) (r : Fin 16) :
    roundHalves block ks decrypt (r.val + 1) = feistelRound ks decrypt (roundHalves block ks decrypt r) r := by
  rw [roundHalves, ← List.take_append_getElem (l := rounds) r.isLt, rounds_getElem, List.foldl_append]
  rfl

/-- R144: the halves after all sixteen rounds, put together right half first, through FP. -/
theorem processBlock_eq (block : Block) (ks : SubkeySet) (decrypt : Bool) :
    processBlock block ks decrypt = permute ROM.FP
      ((roundHalves block ks decrypt 16).2 ++ (roundHalves block ks decrypt 16).1) := rfl

/-- Settles O22: the halves are `roundHalves`, the bits of IP and FP by `permute_getMsbD_position`. -/
theorem blockOperationRounds : Obligations.BlockOperationRounds := by
  refine fun block ks decrypt => ⟨fun n => (roundHalves block ks decrypt n).1,
    fun n => (roundHalves block ks decrypt n).2, fun j hj => ?_, fun j hj => ?_, fun r h => ?_, fun j hj => ?_⟩
  · exact (leftHalf_getMsbD _ hj).trans (permute_getMsbD_position ROM.IP block j (by omega))
  · exact (rightHalf_getMsbD _ hj).trans (permute_getMsbD_position ROM.IP block (32 + j) (by omega))
  · have hround := roundHalves_succ block ks decrypt ⟨r, h⟩
    exact ⟨congrArg Prod.fst hround, congrArg Prod.snd hround⟩
  · rw [processBlock_eq]
    exact permute_getMsbD_position ROM.FP _ j hj

end Sys2Proof.Machine
end

section
/-! PROOFS. Each direction undoes the other (R148 (a), (b), (d)). -/

namespace Sys2Proof.Machine

/-- R143: the other direction takes the subkeys in the opposite order. -/
theorem roundKey_rev (ks : SubkeySet) (decrypt : Bool) (r : Fin 16) :
    roundKey ks (!decrypt) r.rev = roundKey ks decrypt r := by
  have hlast : 15 - (15 - r.val) = r.val := by omega
  cases decrypt <;> simp [roundKey, Fin.val_rev, hlast]

/-- A round of the other direction, with the same subkey, takes the swapped halves back (R141), whatever `f` is. -/
theorem feistelRound_undo (ks : SubkeySet) (decrypt : Bool) (lr : Half × Half) (r : Fin 16) :
    feistelRound ks (!decrypt) (feistelRound ks decrypt lr r).swap r.rev = lr.swap := by
  simp [feistelRound, roundKey_rev, Prod.swap]

/-- The rounds of a list are undone by the opposite rounds, the last one first. -/
theorem foldl_feistelRound_undo (ks : SubkeySet) (decrypt : Bool) (rs : List (Fin 16)) (lr : Half × Half) :
    (rs.reverse.map Fin.rev).foldl (feistelRound ks (!decrypt)) (rs.foldl (feistelRound ks decrypt) lr).swap = lr.swap := by
  induction rs generalizing lr with
  | nil => rfl
  | cons r rs ih =>
    rw [List.reverse_cons, List.map_append, List.foldl_append, List.foldl_cons, ih]
    exact feistelRound_undo ks decrypt lr r

theorem rounds_reverse : rounds.reverse.map Fin.rev = rounds := by
  decide

/-- The sixteen rounds of one direction, undone by those of the other on the swapped halves. -/
theorem rounds_undo {ks : SubkeySet} {decrypt : Bool} {l r l' r' : Half}
    (h : rounds.foldl (feistelRound ks decrypt) (l, r) = (l', r')) :
    rounds.foldl (feistelRound ks (!decrypt)) (r', l') = (r, l) := by
  have hundo := foldl_feistelRound_undo ks decrypt rounds (l, r)
  rwa [rounds_reverse, h] at hundo

theorem entryHalves_of_ip {b : Block} {l r : Half} (h : permute ROM.IP b = l ++ r) : entryHalves b = (l, r) := by
  rw [entryHalves, h, leftHalf_append, rightHalf_append]

/-- The entry undoes the exit (R142, R144): FP is inverse to IP. -/
theorem entryHalves_permute_fp (l r : Half) : entryHalves (permute ROM.FP (l ++ r)) = (l, r) :=
  entryHalves_of_ip (permute_ip_permute_fp _)

/-- The exit undoes the entry. -/
theorem permute_fp_entryHalves (b : Block) : permute ROM.FP ((entryHalves b).1 ++ (entryHalves b).2) = b := by
  rw [entryHalves, halves_append, permute_fp_permute_ip]

/-- `processBlock` from its halves on entry and after the last round. -/
theorem processBlock_of_halves {b : Block} {ks : SubkeySet} {decrypt : Bool} {lr lr' : Half × Half}
    (hentry : entryHalves b = lr) (hrounds : rounds.foldl (feistelRound ks decrypt) lr = lr') :
    processBlock b ks decrypt = permute ROM.FP (lr'.2 ++ lr'.1) := by
  rw [← hrounds, ← hentry]
  rfl

/-- R148 (a), (b): the second operation enters with the swapped halves that the first one left. -/
theorem processBlock_undo (b : Block) (ks : SubkeySet) (decrypt : Bool) :
    processBlock (processBlock b ks decrypt) ks (!decrypt) = b :=
  (processBlock_of_halves (entryHalves_permute_fp _ _) (rounds_undo rfl)).trans (permute_fp_entryHalves b)

theorem processBlock_undo_of_eq {b c : Block} {ks : SubkeySet} {decrypt : Bool} (h : processBlock b ks decrypt = c) :
    processBlock c ks (!decrypt) = b :=
  h ▸ processBlock_undo b ks decrypt

theorem processBlock_bijective (ks : SubkeySet) (decrypt : Bool) :
    Function.Bijective fun b => processBlock b ks decrypt := by
  refine Function.bijective_iff_has_inverse.mpr
    ⟨fun b => processBlock b ks (!decrypt), fun b => processBlock_undo b ks decrypt, fun b => ?_⟩
  have hundo := processBlock_undo b ks (!decrypt)
  rwa [Bool.not_not] at hundo

theorem enc_answersWord {x v : Block} {ks : SubkeySet} (h : processBlock x ks false = v) : AnswersWord (.enc x) ks v :=
  h ▸ crypt_answersWord false x ks

theorem dec_answersWord {x v : Block} {ks : SubkeySet} (h : processBlock x ks true = v) : AnswersWord (.dec x) ks v :=
  h ▸ crypt_answersWord true x ks

/-- Settles O23: both directions are `processBlock`, and `processBlock_undo` takes one back by the other. -/
theorem encAndDecUndoEachOther : Obligations.EncAndDecUndoEachOther :=
  fun ks => ⟨fun b => ⟨_, enc_answersWord rfl, dec_answersWord (processBlock_undo b ks false)⟩,
    fun b => ⟨_, dec_answersWord rfl, enc_answersWord (processBlock_undo b ks true)⟩, processBlock_bijective ks⟩

/-- R148 (d): the inverse is the same function. -/
theorem processBlock_replicate_involutive (k : Subkey) (b : Block) :
    processBlock (processBlock b (Vector.replicate 16 k) false) (Vector.replicate 16 k) false = b := by
  rw [← processBlock_replicate]
  exact processBlock_undo b _ false

/-- Settles O24: the order of equal subkeys does not matter, so the inverse of encryption is encryption. -/
theorem equalSubkeysMakeEncSelfInverse : Obligations.EqualSubkeysMakeEncSelfInverse :=
  fun k b => ⟨processBlock_replicate b k, processBlock_replicate_involutive k b⟩

end Sys2Proof.Machine
end

section
/-! PROOFS. The complement property (R148 (e)). -/

namespace Sys2Proof.Machine

theorem extractLsb'_not {w n k : Nat} (x : BitVec w) (h : k + n ≤ w) :
    (~~~x).extractLsb' k n = ~~~x.extractLsb' k n := by
  refine BitVec.eq_of_getMsbD_eq fun j hj => ?_
  have hpos : w - (k + n) + j < w := by omega
  rw [BitVec.getMsbD_not, getMsbD_slice _ h hj, getMsbD_slice _ h hj, BitVec.getMsbD_not]
  simp [hj, hpos]

theorem rotateLeft_not {w : Nat} (x : BitVec w) (r : Nat) : (~~~x).rotateLeft r = ~~~x.rotateLeft r := by
  refine BitVec.eq_of_getMsbD_eq fun j hj => ?_
  simp [BitVec.getMsbD_rotateLeft, hj, Nat.mod_lt _ (Nat.zero_lt_of_lt hj)]

theorem keyHalves_not (key : Block) (n : Nat) :
    keyHalves (~~~key) n = (~~~(keyHalves key n).1, ~~~(keyHalves key n).2) := by
  have hzero : keyHalves (~~~key) 0 = (~~~(keyHalves key 0).1, ~~~(keyHalves key 0).2) := by
    rw [keyHalves_zero, permute_not]
    exact congrArg₂ Prod.mk (extractLsb'_not _ (by decide)) (extractLsb'_not _ (by decide))
  rw [keyHalves_eq_rotateLeft, keyHalves_eq_rotateLeft key n, hzero, rotateLeft_not, rotateLeft_not]

/-- The complemented key has the complemented subkeys, since PC-1, the rotations and PC-2 only move bits. -/
theorem generateSubkeys_not (key : Block) : generateSubkeys (~~~key) = (generateSubkeys key).map (~~~·) := by
  refine Vector.ext fun n hn => ?_
  rw [Vector.getElem_map, generateSubkeys_getElem _ hn, generateSubkeys_getElem _ hn, keyHalves_not, ← permute_not]
  exact congrArg _ BitVec.not_append.symm

theorem roundKey_not (ks : SubkeySet) (decrypt : Bool) (r : Fin 16) :
    roundKey (ks.map (~~~·)) decrypt r = ~~~roundKey ks decrypt r := by
  cases decrypt <;> simp [roundKey]

/-- Both halves complemented. -/
def notHalves (lr : Half × Half) : Half × Half :=
  (~~~lr.1, ~~~lr.2)

/-- R141: `f` does not see the complement of both its operands (`roundF_not`), and the xor keeps that of the left half. -/
theorem feistelRound_not (ks : SubkeySet) (decrypt : Bool) (lr : Half × Half) (r : Fin 16) :
    feistelRound (ks.map (~~~·)) decrypt (notHalves lr) r = notHalves (feistelRound ks decrypt lr r) := by
  simp only [feistelRound, notHalves, roundKey_not, roundF_not, BitVec.not_xor_left]

theorem entryHalves_not (b : Block) : entryHalves (~~~b) = notHalves (entryHalves b) := by
  rw [entryHalves, permute_not]
  exact congrArg₂ Prod.mk (extractLsb'_not _ (by decide)) (extractLsb'_not _ (by decide))

/-- The complement passes through the entry, every round and the exit, for every SubkeySet. -/
theorem processBlock_not (b : Block) (ks : SubkeySet) (decrypt : Bool) :
    processBlock (~~~b) (ks.map (~~~·)) decrypt = ~~~processBlock b ks decrypt := by
  rw [processBlock_of_halves (entryHalves_not b) (List.foldl_hom notHalves (feistelRound_not ks decrypt)),
    processBlock_eq, ← permute_not]
  exact congrArg _ BitVec.not_append.symm

/-- Settles O25: the complemented key has the complemented subkeys (`generateSubkeys_not`). -/
theorem complementProperty : Obligations.ComplementProperty := by
  intro key b decrypt
  rw [generateSubkeys_not]
  exact processBlock_not b _ decrypt

end Sys2Proof.Machine
end

section
/-! PROOFS. ENC and DEC (R145, R146). -/

namespace Sys2Proof.Machine

/-! The worked example, 0x0123456789ABCDEF to 0x85E813540F0AB405 under the key 0x133457799BBCDFF1. -/

theorem permute_ip_worked : permute ROM.IP 0x0123456789ABCDEF = (0xCC00CCFF#32 ++ 0xF0AAF0AA#32) := by
  decide +kernel

theorem rounds_worked : rounds.foldl (feistelRound (generateSubkeys 0x133457799BBCDFF1) false) (0xCC00CCFF, 0xF0AAF0AA) =
    (0x43423234, 0x0A4CD995) := by
  decide +kernel

theorem permute_fp_worked : permute ROM.FP 0x0A4CD99543423234 = 0x85E813540F0AB405 := by
  decide +kernel

theorem processBlock_worked :
    processBlock 0x0123456789ABCDEF (generateSubkeys 0x133457799BBCDFF1) false = 0x85E813540F0AB405 :=
  (processBlock_of_halves (entryHalves_of_ip permute_ip_worked) rounds_worked).trans permute_fp_worked

/-- The block of the worked example put through the other direction (R146). -/
theorem processBlock_worked_decrypt :
    processBlock 0x0123456789ABCDEF (generateSubkeys 0x133457799BBCDFF1) true = 0xEE0F7C12E0B09338 := by
  decide +kernel

/-- Settles O26: the key check raises without a key; with one the answer is `processBlock`, evaluated by its halves. -/
theorem encCommand : Obligations.EncCommand :=
  ⟨⟨rfl, rfl, fun _ _ _ => rfl⟩, fun _ _ h => answers_noKeyError .word rfl h, fun _ _ => enc_answersWord rfl,
    fun k x => enc_answersWord (processBlock_replicate_involutive k x), enc_answersWord processBlock_worked,
    permute_ip_worked, rounds_worked, permute_fp_worked⟩

/-- Settles O27: as ENC; ENC undoes DEC by `processBlock_undo`, and the worked rounds run back by `rounds_undo`. -/
theorem decCommand : Obligations.DecCommand :=
  ⟨⟨rfl, rfl, fun _ _ _ => rfl⟩, fun _ _ h => answers_noKeyError .word rfl h, fun _ _ => dec_answersWord rfl,
    fun ks x => enc_answersWord (processBlock_undo x ks true), dec_answersWord processBlock_worked_decrypt,
    enc_answersWord (processBlock_undo_of_eq (decrypt := true) processBlock_worked_decrypt),
    dec_answersWord (processBlock_undo_of_eq (decrypt := false) processBlock_worked),
    (congrArg _ permute_fp_worked).symm.trans (permute_ip_permute_fp _), rounds_undo (decrypt := false) rounds_worked⟩

end Sys2Proof.Machine
end

section
/-! PROOFS. The padding codec, PAD and UNPAD (R160 to R165). -/

namespace Sys2Proof.Machine

/-! What PAD appends (R160, R161). -/

theorem one_le_padLength (len : Nat) : 1 ≤ padLength len := by
  unfold padLength
  omega

theorem padLength_le (len : Nat) : padLength len ≤ 8 :=
  Nat.sub_le _ _

/-- The pad fills up a block. -/
theorem add_padLength_mod (len : Nat) : (len + padLength len) % 8 = 0 := by
  unfold padLength
  omega

/-- R160: the pad length is the only count in 1..8 that fills up a block. -/
theorem eq_padLength {len n : Nat} (h1 : 1 ≤ n) (h8 : n ≤ 8) (h : (len + n) % 8 = 0) : n = padLength len := by
  unfold padLength
  omega

theorem padBytes_length_mod (x : List Byte) : (padBytes x).length % 8 = 0 := by
  rw [padBytes, List.length_append, List.length_replicate, add_padLength_mod]

theorem endsInPad_padBytes (x : List Byte) : EndsInPad (padBytes x) x :=
  ⟨padLength x.length, one_le_padLength _, padLength_le _, rfl⟩

/-- R165 (c): on whole blocks the pad that was there is the one PAD appends. -/
theorem EndsInPad.padBytes_eq {x y : List Byte} (h : EndsInPad y x) (hy : y.length % 8 = 0) : padBytes x = y := by
  obtain ⟨n, h1, h8, rfl⟩ := h
  rw [List.length_append, List.length_replicate] at hy
  rw [padBytes, ← eq_padLength h1 h8 hy]

/-! What the checks of UNPAD accept (R164). -/

theorem unpadBytes_of_endsInPad {x y : List Byte} (h : EndsInPad x y) : unpadBytes x = some y := by
  obtain ⟨n, h1, h8, rfl⟩ := h
  have hcount : (BitVec.ofNat 8 n).toNat = n := Nat.mod_eq_of_lt (by omega)
  have hlast : (y ++ List.replicate n (BitVec.ofNat 8 n)).getLast? = some (BitVec.ofNat 8 n) := by
    simp [List.getLast?_replicate, Nat.ne_of_gt h1]
  simp [unpadBytes, hlast, hcount, h8, Nat.ne_of_gt h1]

/-- The accepted data are what stands before the pad bytes, all equal to the last byte, which counts them. -/
theorem endsInPad_of_unpadBytes {x y : List Byte} (h : unpadBytes x = some y) : EndsInPad x y := by
  unfold unpadBytes at h
  split at h
  case h_1 => cases h
  case h_2 last _ =>
    dsimp only at h
    split_ifs at h with hrange hlen hall
    cases h
    refine ⟨last.toNat, by omega, by omega, ?_⟩
    have hpad : x.drop (x.length - last.toNat) = List.replicate last.toNat (BitVec.ofNat 8 last.toNat) := by
      rw [BitVec.ofNat_toNat, BitVec.setWidth_eq, List.eq_replicate_iff, List.length_drop]
      exact ⟨by omega, by simpa using hall⟩
    rw [← hpad, List.take_append_drop]

theorem unpadBytes_eq_some_iff {x y : List Byte} : unpadBytes x = some y ↔ EndsInPad x y :=
  ⟨endsInPad_of_unpadBytes, unpadBytes_of_endsInPad⟩

theorem unpadBytes_eq_none_iff {x : List Byte} : unpadBytes x = none ↔ ¬∃ y, EndsInPad x y := by
  simp only [← unpadBytes_eq_some_iff, ← Option.isSome_iff_exists, Option.not_isSome_iff_eq_none]

/-- R165 (a). -/
theorem unpadBytes_padBytes (x : List Byte) : unpadBytes (padBytes x) = some x :=
  unpadBytes_of_endsInPad (endsInPad_padBytes x)

/-- R165 (b): what was padded can be recovered. -/
theorem padBytes_injective : Function.Injective padBytes := fun x y h =>
  Option.some.inj ((unpadBytes_padBytes x).symm.trans ((congrArg unpadBytes h).trans (unpadBytes_padBytes y)))

/-! The two commands, in every state. -/

theorem pad_answers {x p : List Byte} (h : padBytes x = p) (s : State) : Answers (.pad x) s (.buffer .ok p) :=
  h ▸ completeBuffer_eq _ s

theorem unpad_answers {x y : List Byte} (h : unpadBytes x = some y) (s : State) :
    Answers (.unpad x) s (.buffer .ok y) := by
  simp only [Answers, exec, execUnpad, h]
  exact completeBuffer_eq y s

theorem unpad_answers_paddingError {x : List Byte} (h : unpadBytes x = none) (s : State) :
    Answers (.unpad x) s (.buffer .paddingError []) := by
  simp only [Answers, exec, execUnpad, h]
  exact raise_buffer .paddingError s

/-- Settles O28: the count is `padLength`, and the corner cases are `padBytes` evaluated. -/
theorem padCommand : Obligations.PadCommand :=
  ⟨⟨rfl, fun _ _ _ => rfl⟩,
    fun s x => ⟨padLength x.length, rfl, one_le_padLength _, padLength_le _, add_padLength_mod _, pad_answers rfl s⟩,
    fun s => ⟨pad_answers (by decide) s, pad_answers (by decide) s, pad_answers (by decide) s, pad_answers (by decide) s⟩⟩

/-- The corner cases of R164: a count of 0, one above 8, no last byte, a count above the length, and pad bytes that differ
from the count. -/
theorem unpadBytes_refused :
    ∀ x ∈ ([[0], [9], [], [2], [1, 2], [1, 2, 3, 4, 5, 6, 7, 3]] : List (List Byte)), unpadBytes x = none := by
  decide

/-- Settles O29: the checks accept exactly the data that end in a pad (`unpadBytes_eq_some_iff`). -/
theorem unpadCommand : Obligations.UnpadCommand :=
  ⟨⟨rfl, fun _ _ _ => rfl⟩, fun s _ _ h => unpad_answers (unpadBytes_of_endsInPad h) s,
    fun s _ h => unpad_answers_paddingError (unpadBytes_eq_none_iff.mpr h) s,
    fun s => ⟨unpad_answers (by decide) s, unpad_answers (by decide) s, unpad_answers (by decide) s,
      unpad_answers (by decide) s⟩,
    fun s x hx => unpad_answers_paddingError (unpadBytes_refused x hx) s⟩

/-- Settles O30: one lemma for each law of R165. -/
theorem paddingLaws : Obligations.PaddingLaws :=
  ⟨unpadBytes_padBytes, fun x => ⟨_, fun s => ⟨pad_answers rfl s, unpad_answers (unpadBytes_padBytes x) s⟩⟩,
    padBytes_injective, fun _ _ h hy => (endsInPad_of_unpadBytes h).padBytes_eq hy⟩

end Sys2Proof.Machine
end

section
/-! PROOFS. Chunks, the zero fill and `transform` (R166 to R169). -/

namespace Sys2Proof.Machine

/-! The chunks of a buffer (R166). -/

theorem chunks_length (buf : List Byte) : (chunks buf).length = chunkCount buf.length := by
  simp [chunks]

theorem chunks_getElem {buf : List Byte} {j : Nat} (h : j < (chunks buf).length) :
    (chunks buf)[j] = (buf.drop (8 * j)).take 8 := by
  simp [chunks]

theorem length_le_of_mem_chunks {buf c : List Byte} (h : c ∈ chunks buf) : c.length ≤ 8 := by
  obtain ⟨j, hj, rfl⟩ := List.getElem_of_mem h
  rw [chunks_getElem]
  exact List.length_take_le _ _

/-- A buffer of whole blocks has no short chunk. -/
theorem length_of_mem_chunks {buf c : List Byte} (hbuf : buf.length % 8 = 0) (h : c ∈ chunks buf) : c.length = 8 := by
  obtain ⟨j, hj, rfl⟩ := List.getElem_of_mem h
  rw [chunks_length, chunkCount] at hj
  rw [chunks_getElem, List.length_take, List.length_drop]
  omega

/-- The first `m` chunks put together are the first `8 m` bytes. -/
theorem flatMap_range_chunk (buf : List Byte) (m : Nat) :
    ((List.range m).flatMap fun j => (buf.drop (8 * j)).take 8) = buf.take (8 * m) := by
  induction m with
  | zero => rfl
  | succ m ih =>
    rw [List.range_succ, List.flatMap_append, ih, List.flatMap_singleton, ← List.take_add]
    rfl

/-- Cutting a buffer loses nothing and keeps the order. -/
theorem flatten_chunks (buf : List Byte) : (chunks buf).flatten = buf := by
  rw [chunks, ← List.flatMap_def, flatMap_range_chunk]
  refine List.take_of_length_le ?_
  unfold chunkCount
  omega

/-- Whole blocks put in front are cut off again as they are. -/
theorem chunks_flatten_append {bs : List (List Byte)} (h : ∀ b ∈ bs, b.length = 8) (r : List Byte) :
    chunks (bs.flatten ++ r) = bs ++ chunks r := by
  induction bs with
  | nil => rfl
  | cons b bs ih =>
    obtain ⟨hb, hbs⟩ := List.forall_mem_cons.mp h
    rw [List.flatten_cons, List.append_assoc, chunks_append _ hb, ih hbs, List.cons_append]

/-- A border between two blocks is a border between two chunks. -/
theorem chunks_append_of_whole {x : List Byte} (h : x.length % 8 = 0) (y : List Byte) :
    chunks (x ++ y) = chunks x ++ chunks y := by
  have hcut := chunks_flatten_append (fun _ => length_of_mem_chunks h) y
  rwa [flatten_chunks] at hcut

theorem chunks_of_block {x : List Byte} (h : x.length = 8) : chunks x = [x] := by
  simpa using chunks_append [] h

/-! The zero fill of a chunk and of a buffer (R167). -/

theorem zeroFill_length {c : List Byte} (h : c.length ≤ 8) : (zeroFill c).length = 8 := by
  rw [zeroFill, List.length_append, List.length_replicate, Nat.add_sub_cancel' h]

/-- A buffer with zeros behind it up to the next block border. -/
def zeroFillBuffer (x : List Byte) : List Byte :=
  x ++ List.replicate ((8 - x.length % 8) % 8) 0

theorem zeroFillBuffer_of_whole {x : List Byte} (h : x.length % 8 = 0) : zeroFillBuffer x = x := by
  simp [zeroFillBuffer, h]

theorem zeroFillBuffer_length (x : List Byte) : (zeroFillBuffer x).length = 8 * chunkCount x.length := by
  rw [zeroFillBuffer, List.length_append, List.length_replicate, chunkCount]
  omega

/-- Filling the buffer fills its chunks: only the last one can be short, and the zeros follow it. -/
theorem chunks_zeroFillBuffer (x : List Byte) : chunks (zeroFillBuffer x) = (chunks x).map zeroFill := by
  refine List.ext_getElem ?_ fun j hj _ => ?_
  · rw [List.length_map, chunks_length, chunks_length, zeroFillBuffer_length]
    unfold chunkCount
    omega
  · rw [chunks_length, zeroFillBuffer_length, chunkCount, chunkCount] at hj
    have hdrop : 8 * j - x.length = 0 := by omega
    rw [List.getElem_map, chunks_getElem, chunks_getElem, zeroFillBuffer, zeroFill, List.drop_append, hdrop, List.drop_zero,
      List.take_append, List.take_replicate, List.length_take, List.length_drop]
    congr 2
    omega

/-! `transform` (R168). -/

theorem transformChunk_length (ks : SubkeySet) (decrypt : Bool) (c : List Byte) :
    (transformChunk ks decrypt c).length = 8 :=
  bytes64_length _

/-- The chunks of the output are those of the input, each through the cipher. -/
theorem chunks_transform (buf : List Byte) (ks : SubkeySet) (decrypt : Bool) :
    chunks (transform buf ks decrypt) = (chunks buf).map (transformChunk ks decrypt) := by
  have hcut := chunks_flatten_append (bs := (chunks buf).map (transformChunk ks decrypt))
    (List.forall_mem_map.mpr fun c _ => transformChunk_length ks decrypt c) []
  rwa [List.append_nil, chunks_nil, List.append_nil, ← List.flatMap_def] at hcut

theorem transform_length (buf : List Byte) (ks : SubkeySet) (decrypt : Bool) :
    (transform buf ks decrypt).length = 8 * chunkCount buf.length := by
  simp [transform, List.length_flatMap, transformChunk_length, chunks_length, Nat.mul_comm]

theorem transform_length_mod (buf : List Byte) (ks : SubkeySet) (decrypt : Bool) :
    (transform buf ks decrypt).length % 8 = 0 := by
  rw [transform_length, Nat.mul_mod_right]

theorem transform_length_of_whole {x : List Byte} (h : x.length % 8 = 0) (ks : SubkeySet) (decrypt : Bool) :
    (transform x ks decrypt).length = x.length := by
  rw [transform_length, chunkCount]
  omega

theorem transform_length_of_block {x : List Byte} (h : x.length = 8) (ks : SubkeySet) (decrypt : Bool) :
    (transform x ks decrypt).length = 8 :=
  (transform_length_of_whole (by simp [h]) ks decrypt).trans h

/-- Settles O32: the pieces of the output are its chunks, which `chunks_transform` names. -/
theorem transformChunkByChunk : Obligations.TransformChunkByChunk := by
  intro buf ks decrypt
  refine ⟨transform_length buf ks decrypt, fun j hj c hc => ?_⟩
  have hin : j < (chunks buf).length := (chunks_length buf).symm ▸ hj
  have hout : j < (chunks (transform buf ks decrypt)).length := by rwa [chunks_transform, List.length_map]
  calc
    ((transform buf ks decrypt).drop (8 * j)).take 8 = (chunks (transform buf ks decrypt))[j] := (chunks_getElem hout).symm
    _ = transformChunk ks decrypt (chunks buf)[j] := by simp only [chunks_transform, List.getElem_map]
    _ = transformChunk ks decrypt c := by rw [chunks_getElem, hc]

/-- No chaining: both directions are homomorphic at block borders (R169). -/
theorem transform_append {x : List Byte} (h : x.length % 8 = 0) (y : List Byte) (ks : SubkeySet) (decrypt : Bool) :
    transform (x ++ y) ks decrypt = transform x ks decrypt ++ transform y ks decrypt := by
  rw [transform, chunks_append_of_whole h, List.flatMap_append, transform, transform]

/-- Equal chunks have equal outputs, at every place (R170). -/
theorem transform_equal_chunks {x y : List Byte} (hx : x.length = 8) (hy : y.length = 8) (ks : SubkeySet)
    (decrypt : Bool) : transform (x ++ y ++ x) ks decrypt =
      transform x ks decrypt ++ transform y ks decrypt ++ transform x ks decrypt := by
  rw [transform_append (by simp [hx, hy]), transform_append (by simp [hx])]

/-- One block is the cipher of its big-endian word (R40). -/
theorem transform_block {x : List Byte} (h : x.length = 8) (ks : SubkeySet) (decrypt : Bool) :
    transform x ks decrypt = bytes64 (processBlock (be64 x) ks decrypt) := by
  rw [transform, chunks_of_block h, List.flatMap_singleton, transformChunk, zeroFill_of_whole h]

/-- A buffer and its zero fill have one output: the chunks are filled in any case. -/
theorem transform_zeroFillBuffer (x : List Byte) (ks : SubkeySet) (decrypt : Bool) :
    transform (zeroFillBuffer x) ks decrypt = transform x ks decrypt := by
  rw [transform, chunks_zeroFillBuffer, List.flatMap_map, transform]
  refine List.flatMap_congr fun c hc => ?_
  rw [transformChunk, zeroFill_of_whole (zeroFill_length (length_le_of_mem_chunks hc)), transformChunk]

/-- A chunk taken back is the zero-filled chunk, since the cipher's two directions undo each other. -/
theorem transformChunk_undo (ks : SubkeySet) (decrypt : Bool) {c : List Byte} (h : c.length ≤ 8) :
    transformChunk ks (!decrypt) (transformChunk ks decrypt c) = zeroFill c := by
  rw [transformChunk, zeroFill_of_whole (transformChunk_length ks decrypt c), transformChunk, be64_bytes64,
    processBlock_undo, bytes64_be64 (zeroFill_length h)]

/-- Each direction undoes the other up to the zero fill (R172). -/
theorem transform_undo (x : List Byte) (ks : SubkeySet) (decrypt : Bool) :
    transform (transform x ks decrypt) ks (!decrypt) = zeroFillBuffer x :=
  calc
    transform (transform x ks decrypt) ks (!decrypt) =
        (chunks x).flatMap fun c => transformChunk ks (!decrypt) (transformChunk ks decrypt c) := by
      rw [transform, chunks_transform, List.flatMap_map]
    _ = (chunks x).flatMap zeroFill :=
      List.flatMap_congr fun _ hc => transformChunk_undo ks decrypt (length_le_of_mem_chunks hc)
    _ = (chunks (zeroFillBuffer x)).flatten := by rw [chunks_zeroFillBuffer, List.flatMap_def]
    _ = zeroFillBuffer x := flatten_chunks _

theorem transform_undo_of_whole {x : List Byte} (h : x.length % 8 = 0) (ks : SubkeySet) (decrypt : Bool) :
    transform (transform x ks decrypt) ks (!decrypt) = x :=
  (transform_undo x ks decrypt).trans (zeroFillBuffer_of_whole h)

end Sys2Proof.Machine
end

section
/-! PROOFS. ENCRYPT and DECRYPT (R170, R171), and the buffer laws (R172). -/

namespace Sys2Proof.Machine

theorem encrypt_answersBuffer_of_eq {x c : List Byte} {ks : SubkeySet} (h : transform x ks false = c) :
    AnswersBuffer (.encrypt x) ks c :=
  h ▸ encrypt_answersBuffer x ks

theorem decrypt_answersBuffer_of_eq {x c : List Byte} {ks : SubkeySet} (hx : x.length % 8 = 0)
    (h : transform x ks true = c) : AnswersBuffer (.decrypt x) ks c :=
  h ▸ decrypt_answersBuffer hx ks

/-- DECRYPT of what ENCRYPT answered gives the zero-filled data back. -/
theorem decrypt_of_encrypt_answersBuffer (x : List Byte) (ks : SubkeySet) :
    AnswersBuffer (.decrypt (transform x ks false)) ks (zeroFillBuffer x) :=
  decrypt_answersBuffer_of_eq (transform_length_mod x ks false) (transform_undo x ks false)

/-- DECRYPT of what ENCRYPT answered gives whole blocks back. -/
theorem decrypt_of_encrypt_answersBuffer_of_whole {x : List Byte} (h : x.length % 8 = 0) (ks : SubkeySet) :
    AnswersBuffer (.decrypt (transform x ks false)) ks x :=
  decrypt_answersBuffer_of_eq (transform_length_mod x ks false) (transform_undo_of_whole h ks false)

/-- With a key, a buffer that is not whole blocks is refused and nothing of it is decrypted (R171). -/
theorem decrypt_answers_blockLengthError {x : List Byte} {ks : SubkeySet} {s : State} (hs : s.subkeys = some ks)
    (h : x.length % 8 ≠ 0) : Answers (.decrypt x) s (.buffer .blockLengthError []) := by
  simp only [Answers, exec, execDecrypt]
  rw [withKey_some _ _ hs, if_pos h]
  exact raise_buffer .blockLengthError s

/-! The worked examples of R170 and R171: "hello" padded, and "hello" zero-filled. -/

theorem transform_worked_padded :
    transform [0x68, 0x65, 0x6C, 0x6C, 0x6F, 0x03, 0x03, 0x03] (generateSubkeys 0x133457799BBCDFF1) false =
      [0x18, 0x0F, 0x8B, 0x04, 0x4A, 0x21, 0x1D, 0x47] := by
  decide +kernel

theorem transform_worked_ragged :
    transform [0x68, 0x65, 0x6C, 0x6C, 0x6F] (generateSubkeys 0x133457799BBCDFF1) false =
      [0x5C, 0xE0, 0x29, 0x31, 0x52, 0x02, 0x97, 0xD9] := by
  decide +kernel

/-- Settles O33: the key check raises without a key; with one the answer is `transform`, whose laws give the corner cases. -/
theorem encryptCommand : Obligations.EncryptCommand :=
  ⟨⟨rfl, rfl, fun _ _ _ => rfl⟩, fun _ _ h => answers_noKeyError .buffer rfl h,
    fun ks x => encrypt_answersBuffer x ks, fun ks => encrypt_answersBuffer [] ks,
    fun ks x => decrypt_of_encrypt_answersBuffer x ks,
    fun ks _ _ hx hy => ⟨_, _, transform_length_of_block hx ks false, transform_length_of_block hy ks false,
      encrypt_answersBuffer_of_eq (transform_equal_chunks hx hy ks false)⟩,
    encrypt_answersBuffer_of_eq transform_worked_padded, encrypt_answersBuffer_of_eq transform_worked_ragged,
    encrypt_answersBuffer_of_eq ((transform_zeroFillBuffer [0x68, 0x65, 0x6C, 0x6C, 0x6F] _ _).trans
      transform_worked_ragged)⟩

/-- Settles O34: `NoKeyError` and `BlockLengthError` by the checks in their order; the worked example takes back that of
ENCRYPT. -/
theorem decryptCommand : Obligations.DecryptCommand :=
  ⟨⟨rfl, rfl, fun _ _ _ => rfl⟩, fun _ _ h => answers_noKeyError .buffer rfl h,
    fun _ _ _ hs h => decrypt_answers_blockLengthError hs h, fun ks _ h => decrypt_answersBuffer h ks,
    fun ks => decrypt_answersBuffer (d := []) rfl ks,
    transform_worked_padded ▸ decrypt_of_encrypt_answersBuffer_of_whole (by decide) _,
    fun _ hs => decrypt_answers_blockLengthError hs (by decide)⟩

/-- Settles O35: every law is one about `transform` (`transform_length`, `transform_undo`, `transform_append`,
`transform_block`), said of the two commands. -/
theorem bufferLaws : Obligations.BufferLaws := by
  intro ks x y
  refine ⟨⟨_, encrypt_answersBuffer x ks, transform_length x ks false⟩,
    fun hx => ⟨_, decrypt_answersBuffer hx ks, transform_length_of_whole hx ks true⟩,
    fun hx => ⟨_, encrypt_answersBuffer x ks, decrypt_of_encrypt_answersBuffer_of_whole hx ks⟩,
    fun hx => ⟨_, decrypt_answersBuffer hx ks, encrypt_answersBuffer_of_eq (transform_undo_of_whole hx ks true)⟩,
    ⟨_, encrypt_answersBuffer x ks, decrypt_of_encrypt_answersBuffer x ks⟩,
    ⟨padBytes x, _, fun s _ => pad_answers rfl s, encrypt_answersBuffer _ ks,
      decrypt_of_encrypt_answersBuffer_of_whole (padBytes_length_mod x) ks,
      fun s _ => unpad_answers (unpadBytes_padBytes x) s⟩,
    fun hx => ⟨_, _, encrypt_answersBuffer x ks, encrypt_answersBuffer y ks,
      encrypt_answersBuffer_of_eq (transform_append hx y ks false)⟩,
    fun hx hy => ⟨_, _, decrypt_answersBuffer hx ks, decrypt_answersBuffer hy ks,
      decrypt_answersBuffer_of_eq ?_ (transform_append hx y ks true)⟩,
    fun hx => ⟨_, _, enc_answersWord rfl, encrypt_answersBuffer_of_eq (transform_block hx ks false), dec_answersWord rfl,
      decrypt_answersBuffer_of_eq ?_ (transform_block hx ks true)⟩⟩
  · rw [List.length_append]
    omega
  · rw [hx]

end Sys2Proof.Machine
end

section
/-! PROOFS. What a step on any command record can do, and what an error leaves unchanged (R196). -/

namespace Sys2Proof

/-- A response without data, written out. -/
theorem Response.eq_of_noData {r : Response} (h : r.noData = true) : r = .word r.status 0 ∨ r = .buffer r.status [] := by
  cases r with
  | word st v => exact .inl (congrArg (Response.word st) (eq_of_beq h))
  | buffer st d => exact .inr (congrArg (Response.buffer st) (eq_of_beq h))

end Sys2Proof

namespace Sys2Proof.Machine

/-- Everything a step on a command record, legal or not, can do: it takes the record and gives one response, and it changes
`SUBKEY` only when that response is `OK`. -/
theorem step_command_cases {s : State} {c : Command} {rest : List PortEvent} (hp : s.pending = .command c :: rest) :
    ∃ r : Response, step s = .next ((s.take rest).respond r) ∧ (r.status = .ok ∨ r.noData = true) ∨
      ∃ key, step s = .next (((s.take rest).loadKey (generateSubkeys key)).respond r) ∧ r.status = .ok := by
  cases hd : decode c with
  | ok i =>
    rw [step_of_decode_ok hp hd]
    exact exec_cases i _
  | error e =>
    rw [step_of_decode_error hp hd]
    obtain ⟨r, hr, _, _, hdata⟩ := raise_cases (formatOf c.op) .illegalCommand (s.take rest)
    exact ⟨r, .inl ⟨hr, .inr hdata⟩⟩

/-- Settles O37: of the two things a step can do (`step_command_cases`), a key load is answered `OK`; the other adds the
response and nothing else. -/
theorem errorsChangeNothing : Obligations.ErrorsChangeNothing := by
  intro s t c rest r hp ht hr herr
  obtain ⟨r', ⟨hx, hdata⟩ | ⟨key, hx, hok⟩⟩ := step_command_cases hp
  all_goals
    cases ht.symm.trans hx
    cases List.append_cancel_left hr
  · exact ⟨rfl, Response.eq_of_noData (hdata.resolve_left herr)⟩
  · exact absurd hok herr

end Sys2Proof.Machine
end

section
/-! PROOFS. The status of every command record in every state (R191, R192). -/

namespace Sys2Proof

open Machine

/-- The status of a command record where `KEY_VALID` is `keyValid`: the checks of R192, in their order. That the machine gives
this status is `step_givesStatus`. -/
def Command.statusFor (c : Command) (keyValid : Bool) : Status :=
  if c.op ∉ commandCodes then .illegalCommand
  else if c.op ∈ keyedCodes ∧ keyValid = false then .noKeyError
  else if c.op = 0x24 ∧ c.data.length ≠ 8 then .keyLengthError
  else if c.op = 0x23 ∧ c.data.length % 8 ≠ 0 then .blockLengthError
  else if c.op = 0x21 ∧ unpadBytes c.data = none then .paddingError
  else .ok

/-! One rule for each cause. -/

theorem keyedCodes_subset : keyedCodes ⊆ commandCodes := by decide

theorem statusFor_of_not_mem {c : Command} (h : c.op ∉ commandCodes) (keyValid : Bool) :
    c.statusFor keyValid = .illegalCommand :=
  if_pos h

theorem statusFor_of_no_key {c : Command} (h : c.op ∈ keyedCodes) : c.statusFor false = .noKeyError := by
  simp [Command.statusFor, h, keyedCodes_subset h]

/-- NEW checks the length of its key. -/
theorem statusFor_of_new {c : Command} (hop : c.op = 0x24) (keyValid : Bool) :
    c.statusFor keyValid = if c.data.length = 8 then .ok else .keyLengthError := by
  simp [Command.statusFor, commandCodes, keyedCodes, hop]

/-- DECRYPT, once there is a key, checks that its buffer is whole blocks. -/
theorem statusFor_of_decrypt {c : Command} (hop : c.op = 0x23) :
    c.statusFor true = if c.data.length % 8 = 0 then .ok else .blockLengthError := by
  simp [Command.statusFor, commandCodes, hop]

/-- UNPAD checks the pad of its buffer. -/
theorem statusFor_of_unpad {c : Command} (hop : c.op = 0x21) (keyValid : Bool) :
    c.statusFor keyValid = if unpadBytes c.data = none then .paddingError else .ok := by
  simp [Command.statusFor, commandCodes, keyedCodes, hop]

/-- No check fails. -/
theorem statusFor_eq_ok {c : Command} {keyValid : Bool} (hop : c.op ∈ commandCodes)
    (hkey : c.op ∈ keyedCodes → keyValid = true) (hnew : c.op = 0x24 → c.data.length = 8)
    (hdecrypt : c.op = 0x23 → c.data.length % 8 = 0) (hunpad : c.op = 0x21 → unpadBytes c.data ≠ none) :
    c.statusFor keyValid = .ok := by
  rw [Command.statusFor, if_neg (not_not.mpr hop), if_neg fun h => by simp [hkey h.1] at h, if_neg fun h => h.2 (hnew h.1),
    if_neg fun h => h.2 (hdecrypt h.1), if_neg fun h => hunpad h.1 h.2]

/-- The checks read no surplus field of a record (R64): only the commands with a buffer check its length or its pad. -/
theorem statusFor_exact (c : Command) (keyValid : Bool) : c.exact.statusFor keyValid = c.statusFor keyValid := by
  by_cases hbuf : (operandSlices c.op).2.2 = true
  · simp [Command.statusFor, Command.exact, hbuf]
  · have h24 : c.op ≠ 0x24 := fun h => hbuf (h ▸ rfl)
    have h23 : c.op ≠ 0x23 := fun h => hbuf (h ▸ rfl)
    have h21 : c.op ≠ 0x21 := fun h => hbuf (h ▸ rfl)
    simp only [Command.statusFor, Command.exact, h24, h23, h21, false_and, if_false]

end Sys2Proof

namespace Sys2Proof.Machine

/-- The outcome `o` of a command run at `s` is a next state with one more response, which has the status `st`. -/
def GivesStatus (st : Status) (s : State) (o : Outcome) : Prop :=
  ∃ t r, o = .next t ∧ t.responses = s.responses ++ [r] ∧ r.status = st

theorem Answers.givesStatus {i : Instr} {s : State} {r : Response} {st : Status} (h : Answers i s r) (hr : r.status = st) :
    GivesStatus st s (exec i s) :=
  ⟨_, r, h, rfl, hr⟩

theorem Loads.givesStatus {i : Instr} {s : State} {ks : SubkeySet} {r : Response} {st : Status} (h : Loads i s ks r)
    (hr : r.status = st) : GivesStatus st s (exec i s) :=
  ⟨_, r, h, rfl, hr⟩

theorem completeWord_givesStatus {n : Nat} (v : BitVec n) (s : State) : GivesStatus .ok s (completeWord v s) :=
  ⟨_, _, completeWord_eq v s, rfl, rfl⟩

theorem raise_givesStatus (fmt : Format) (st : Status) (s : State) : GivesStatus st s (raise fmt st s) :=
  let ⟨r, h, hst, _, _⟩ := raise_cases fmt st s
  ⟨_, r, h, rfl, hst⟩

/-- A keyed command: the key check comes first (R192), so the rest of it need only be known where there is a key. -/
theorem exec_givesStatus_of_keyed {i : Instr} (fmt : Format) {run : SubkeySet → State → Outcome} {s : State}
    (hi : exec i = withKey fmt run) (hop : (encode i).op ∈ keyedCodes)
    (h : ∀ ks, s.subkeys = some ks → GivesStatus ((encode i).statusFor true) s (exec i s)) :
    GivesStatus ((encode i).statusFor s.keyValid) s (exec i s) := by
  cases hs : s.subkeys with
  | none =>
    rw [(keyValid_eq_false_iff s).mpr hs, statusFor_of_no_key hop]
    exact (answers_noKeyError fmt hi hs).givesStatus (errorResponse_status _ _)
  | some ks =>
    rw [keyValid_of_subkeys hs]
    exact h ks hs

/-- Every command, in every state, is answered with the status of the first check that fails, or `OK`. -/
theorem exec_givesStatus (i : Instr) (s : State) : GivesStatus ((encode i).statusFor s.keyValid) s (exec i s) := by
  cases i with
  | f | subst | permIp | permFp | permE | permP | permPc1 | permPc2 => exact completeWord_givesStatus _ s
  | keygen key => exact (keygen_loads key s).givesStatus rfl
  | pad d => exact (pad_answers rfl s).givesStatus rfl
  | enc x =>
    exact exec_givesStatus_of_keyed .word rfl (of_decide_eq_true rfl) fun ks hs =>
      (enc_answersWord rfl s hs).givesStatus rfl
  | dec x =>
    exact exec_givesStatus_of_keyed .word rfl (of_decide_eq_true rfl) fun ks hs =>
      (dec_answersWord rfl s hs).givesStatus rfl
  | rdsk k =>
    exact exec_givesStatus_of_keyed .word rfl (of_decide_eq_true rfl) fun ks hs =>
      (rdsk_answersWord k ks s hs).givesStatus rfl
  | encrypt d =>
    exact exec_givesStatus_of_keyed .buffer rfl (of_decide_eq_true rfl) fun ks hs =>
      (encrypt_answersBuffer d ks s hs).givesStatus rfl
  | decrypt d =>
    refine exec_givesStatus_of_keyed .buffer rfl (of_decide_eq_true rfl) fun ks hs => ?_
    rw [statusFor_of_decrypt rfl]
    split
    case isTrue hlen => exact (decrypt_answersBuffer hlen ks s hs).givesStatus rfl
    case isFalse hlen => exact (decrypt_answers_blockLengthError hs hlen).givesStatus rfl
  | new d =>
    rw [statusFor_of_new rfl]
    split
    case isTrue hlen => exact (new_loads hlen s).givesStatus rfl
    case isFalse hlen => exact (new_answers_keyLengthError hlen s).givesStatus rfl
  | unpad d =>
    rw [statusFor_of_unpad rfl]
    split
    case isTrue hpad => exact (unpad_answers_paddingError hpad s).givesStatus rfl
    case isFalse hpad =>
      obtain ⟨y, hy⟩ := Option.ne_none_iff_exists'.mp hpad
      exact (unpad_answers hy s).givesStatus rfl

/-- A step on a command record, legal or not, in every state: the status is that of R192. -/
theorem step_givesStatus {s : State} {c : Command} {rest : List PortEvent} (hp : s.pending = .command c :: rest) :
    GivesStatus (c.statusFor s.keyValid) s (step s) := by
  rcases decode_cases c with ⟨i, hd⟩ | ⟨hop, hd⟩
  · rw [step_of_decode_ok hp hd, ← statusFor_exact, ← encode_eq_exact hd]
    exact exec_givesStatus i (s.take rest)
  · rw [step_of_decode_error hp hd, statusFor_of_not_mem hop]
    exact raise_givesStatus _ _ (s.take rest)

/-- Settles O38: the step gives the status that `Command.statusFor` names (`step_givesStatus`), which each cause then fixes. -/
theorem statusOfEveryCommand : Obligations.StatusOfEveryCommand := by
  refine ⟨rfl, fun st => by cases st <;> decide, fun s c rest hp => ?_⟩
  obtain ⟨t, r, ht, hr, hst⟩ := step_givesStatus hp
  refine ⟨t, r, ht, hr, fun hop => ?_, fun hop hkey => ?_, fun hop hlen => ?_, fun hop hkey hlen => ?_, fun hop hpad => ?_,
    fun hop hkey hnew hdecrypt hunpad => ?_⟩ <;> rw [hst]
  · exact statusFor_of_not_mem hop _
  · exact hkey ▸ statusFor_of_no_key hop
  · exact (statusFor_of_new hop _).trans (if_neg hlen)
  · exact hkey ▸ (statusFor_of_decrypt hop).trans (if_neg hlen)
  · exact (statusFor_of_unpad hop _).trans (if_pos (unpadBytes_eq_none_iff.mpr hpad))
  · exact statusFor_eq_ok hop hkey hnew hdecrypt fun h hnone => unpadBytes_eq_none_iff.mp hnone (hunpad h)

end Sys2Proof.Machine
end

section
/-! PROOFS. Reset between two commands (R30, R210), and runs of commands from any state (R213, R217). -/

namespace Sys2Proof.Machine

/-- Settles O50: `step_of_reset` is the step, and the flag follows the SubkeySet. -/
theorem resetClearsTheKey : Obligations.ResetClearsTheKey :=
  ⟨reset_subkeys, (keyValid_eq_false_iff _).mpr reset_subkeys, fun _ _ hp => step_of_reset hp⟩

/-- Settles O40, by induction on the commands at the port: each step takes one of them and answers once
(`step_command_respondsIn`). -/
theorem runOfCommandsAnswersEach : Obligations.RunOfCommandsAnswersEach := by
  intro s cs hp
  induction cs generalizing s with
  | nil => exact ⟨s, [], rfl, hp, (List.append_nil _).symm, rfl⟩
  | cons c cs ih =>
    obtain ⟨u, r, hstep, hpend, hresp, hfmt⟩ := step_command_respondsIn hp
    obtain ⟨t, rs, hrun, ht, hrs, hfmts⟩ := ih u hpend
    refine ⟨t, r :: rs, RunsTo.of_step hstep hrun, ht, ?_, congrArg₂ List.cons hfmt hfmts⟩
    simp [hrs, hresp]

/-- A run of buffer commands with one SubkeySet loaded answers each of them in turn and changes nothing else. -/
theorem runsTo_of_answersBuffer {ks : SubkeySet} {is : List Instr} {ys : List (List Byte)}
    (h : List.Forall₂ (AnswersBuffer · ks ·) is ys) {s : State} (hs : s.subkeys = some ks)
    (hp : s.pending = is.map fun i => .command (encode i)) :
    RunsTo is.length s { s with pending := [], responses := s.responses ++ ys.map (.buffer .ok) } := by
  induction h generalizing s with
  | nil =>
    obtain ⟨_, _, _⟩ := s
    cases hp
    simp [RunsTo, Host.Core.run]
  | cons hi _ ih =>
    have hstep := (step_of_encode hp).trans (hi (s.take _) hs)
    simpa using RunsTo.of_step hstep (ih hs rfl)

/-- R213 after the key load: PAD, ENCRYPT, DECRYPT and UNPAD, each on what an earlier one answered. -/
theorem normalUse_answersBuffer (m : List Byte) (ks : SubkeySet) :
    List.Forall₂ (AnswersBuffer · ks ·)
      [.pad m, .encrypt (padBytes m), .decrypt (transform (padBytes m) ks false), .unpad (padBytes m)]
      [padBytes m, transform (padBytes m) ks false, padBytes m, m] :=
  .cons (fun s _ => pad_answers rfl s) <|
  .cons (encrypt_answersBuffer (padBytes m) ks) <|
  .cons (decrypt_of_encrypt_answersBuffer_of_whole (padBytes_length_mod m) ks) <|
  .cons (fun s _ => unpad_answers (unpadBytes_padBytes m) s) .nil

/-- Settles O36: NEW loads the key's subkeys (`new_loads`), and with them loaded the other four commands answer as
`normalUse_answersBuffer` says. -/
theorem normalUseReturnsTheMessage : Obligations.NormalUseReturnsTheMessage := by
  intro s kb m hkb
  have hrest := normalUse_answersBuffer m (generateSubkeys (be64 kb))
  exact ⟨padBytes m, _, _, RunsTo.of_step ((step_of_encode rfl).trans (new_loads hkb _))
    (runsTo_of_answersBuffer hrest rfl rfl), by simp, rfl, rfl⟩

end Sys2Proof.Machine
end
